-- ==== Sys2Proof/Word.lean ====
section
/-! DEFINITION. The machine's words: every value is an unsigned bit vector of the width rule R5 (00_scope.md) gives it. -/

namespace Sys2Proof

/-- A 4-bit instruction nibble: a register index, a key index, a sprite height or the stack pointer (R62, R16, D26). -/
abbrev Nibble := BitVec 4

/-- A general register, a timer, an immediate `kk` or a memory cell (R5, R10, R15, R40). -/
abbrev Byte := BitVec 8

/-- The 12-bit address field `nnn` (R62). -/
abbrev Addr := BitVec 12

/-- A fetched instruction, PC, I or a stack cell (R5, R12, R14, R17). -/
abbrev Word := BitVec 16

/-- The index of VF = V[15], the register that doubles as the flag (R11). -/
abbrev vfIndex : Nibble := 15#4

end Sys2Proof
end

