-- ==== Sys2Proof/Config.lean ====
section
/-! DEFINITION. What is fixed for the machine: the sizes of rule R5 (00_scope.md), the parameters of rules R6 and R7, and the
free random bytes of Cxkk. -/

namespace Sys2Proof.Config

/-- Memory has 4096 cells, addresses 0x000 to 0xFFF (R5, R40). -/
abbrev memSize : Nat := 4096

/-- The highest address of a cell (R40, R47). -/
abbrev maxAddr : Nat := 0xFFF

/-- The program region and the entry point (R5, R41, R231). -/
abbrev programStart : Nat := 0x200

/-- The largest ROM, 4096 - 512 bytes (R5, R181). -/
abbrev maxRom : Nat := 3584

/-- The default display width of CH8 (R6). -/
abbrev defaultWidth : Nat := 64

/-- The default display height of CH8 (R6). -/
abbrev defaultHeight : Nat := 32

/-- `HAS_LD_VX_VY` of rule R7: whether 8xy0 is an instruction. The spec's value is true (D16). PRESUMED, log 3. -/
def hasLdVxVy : Bool := true

/-- `KEY_INDEX_POLICY` of rule R7: what Ex9E and ExA1 do when `V[x]` is above 15 (D13). -/
inductive KeyIndexPolicy where
  /-- The key is the low nibble of `V[x]`. -/
  | mask
  /-- The model gives the instruction no transition. -/
  | refuse
  deriving DecidableEq, Repr

/-- The spec's value of `KEY_INDEX_POLICY` (R7, D13). DEDUCED, log 6. -/
def keyIndexPolicy : KeyIndexPolicy := .mask

/-- The two parameters of rule R7 with an alternative value, as one argument of the machine (log 35). The others are arguments of construction
(W, H, ROM, FONT), inputs (the random byte), or have one value in the spec. -/
structure Params where
  hasLdVxVy : Bool
  keyIndexPolicy : KeyIndexPolicy
  deriving DecidableEq, Repr

/-- The spec's values (R7). -/
def params : Params := { hasLdVxVy := hasLdVxVy, keyIndexPolicy := keyIndexPolicy }

/-- The bytes Cxkk draws once the supplied ones are used up, by number of draw. No body and so no known value: rule R127 asks that
the model fix no generator, no seed and no sequence. A FREE VALUE, log 10. -/
opaque randomByte : Nat → Byte

end Sys2Proof.Config
end

