-- ==== Sys2Proof/Syntax.lean ====
section
/-! DEFINITION. The 34 instructions of spec/opcode_table.json (30_encoding.md R66), one constructor a row, in the table's order. -/

namespace Sys2Proof

/-- One decoded instruction. `x`, `y` are register indices, `n` a sprite height, `kk` an immediate byte, `nnn` an address (R62). -/
inductive Instr where
  /-- 00E0 `CLS` (R100). -/
  | cls
  /-- 00EE `RET` (R102). -/
  | ret
  /-- 1nnn `JP addr` (R101). -/
  | jp (nnn : Addr)
  /-- 2nnn `CALL addr` (R103). -/
  | call (nnn : Addr)
  /-- 3xkk `SE Vx, byte` (R110). -/
  | seImm (x : Nibble) (kk : Byte)
  /-- 4xkk `SNE Vx, byte` (R111). -/
  | sneImm (x : Nibble) (kk : Byte)
  /-- 5xy0 `SE Vx, Vy` (R112). -/
  | seReg (x y : Nibble)
  /-- 6xkk `LD Vx, byte` (R114). -/
  | ldImm (x : Nibble) (kk : Byte)
  /-- 7xkk `ADD Vx, byte` (R115). -/
  | addImm (x : Nibble) (kk : Byte)
  /-- 8xy0 `LD Vx, Vy` (R117). -/
  | ldReg (x y : Nibble)
  /-- 8xy1 `OR Vx, Vy` (R118). -/
  | orReg (x y : Nibble)
  /-- 8xy2 `AND Vx, Vy` (R119). -/
  | andReg (x y : Nibble)
  /-- 8xy3 `XOR Vx, Vy` (R120). -/
  | xorReg (x y : Nibble)
  /-- 8xy4 `ADD Vx, Vy` (R121). -/
  | addReg (x y : Nibble)
  /-- 8xy5 `SUB Vx, Vy` (R122). -/
  | subReg (x y : Nibble)
  /-- 8xy6 `SHR Vx`; `y` is decoded and ignored (R74, R123). -/
  | shr (x y : Nibble)
  /-- 8xy7 `SUBN Vx, Vy` (R124). -/
  | subnReg (x y : Nibble)
  /-- 8xyE `SHL Vx`; `y` is decoded and ignored (R74, R125). -/
  | shl (x y : Nibble)
  /-- 9xy0 `SNE Vx, Vy` (R113). -/
  | sneReg (x y : Nibble)
  /-- Annn `LD I, addr` (R140). -/
  | ldI (nnn : Addr)
  /-- Bnnn `JP V0, addr`; the table gives both fields, `x` being the top nibble of `nnn` (R74, R104). -/
  | jpV0 (x : Nibble) (nnn : Addr)
  /-- Cxkk `RND Vx, byte` (R127). -/
  | rnd (x : Nibble) (kk : Byte)
  /-- Dxyn `DRW Vx, Vy, nibble` (R155). -/
  | drw (x y n : Nibble)
  /-- Ex9E `SKP Vx` (R153). -/
  | skp (x : Nibble)
  /-- ExA1 `SKNP Vx` (R154). -/
  | sknp (x : Nibble)
  /-- Fx07 `LD Vx, DT` (R150). -/
  | ldVxDt (x : Nibble)
  /-- Fx0A `LD Vx, K` (R156). -/
  | ldVxK (x : Nibble)
  /-- Fx15 `LD DT, Vx` (R151). -/
  | ldDtVx (x : Nibble)
  /-- Fx18 `LD ST, Vx` (R152). -/
  | ldStVx (x : Nibble)
  /-- Fx1E `ADD I, Vx` (R141). -/
  | addI (x : Nibble)
  /-- Fx29 `LD F, Vx` (R142). -/
  | ldF (x : Nibble)
  /-- Fx33 `LD B, Vx` (R143). -/
  | ldB (x : Nibble)
  /-- Fx55 `LD [I], Vx` (R144). -/
  | ldMemVx (x : Nibble)
  /-- Fx65 `LD Vx, [I]` (R145). -/
  | ldVxMem (x : Nibble)
  deriving DecidableEq, Repr

end Sys2Proof
end

