-- ==== Sys2Proof/WellFormed.lean ====
section
/-! DEFINITION. Which terms of `Instr` are instructions of the machine. The operand widths are in the types, so two checks remain. -/

namespace Sys2Proof

/-- The top nibble of an address field, bits 11:8 of the word (R62, R104). -/
def addrTopNibble (nnn : Addr) : Nibble := nnn.extractLsb' 8 4

/-- Well-formedness under a choice of `HAS_LD_VX_VY` (R7, D16): the two overlapping fields of Bnnn agree (R104), and 8xy0 is an
instruction only where the parameter says so (R117). -/
def Instr.wfWith (hasLd : Bool) : Instr → Bool
  | .jpV0 x nnn => x == addrTopNibble nnn
  | .ldReg _ _ => hasLd
  | .cls | .ret | .jp _ | .call _ | .seImm _ _ | .sneImm _ _ | .seReg _ _ | .ldImm _ _ | .addImm _ _
  | .orReg _ _ | .andReg _ _ | .xorReg _ _ | .addReg _ _ | .subReg _ _ | .shr _ _ | .subnReg _ _ | .shl _ _
  | .sneReg _ _ | .ldI _ | .rnd _ _ | .drw _ _ _ | .skp _ | .sknp _ | .ldVxDt _ | .ldVxK _ | .ldDtVx _ | .ldStVx _
  | .addI _ | .ldF _ | .ldB _ | .ldMemVx _ | .ldVxMem _ => true

/-- Well-formedness with the spec's value of `HAS_LD_VX_VY`. -/
def Instr.wf (i : Instr) : Bool := i.wfWith Config.hasLdVxVy

end Sys2Proof
end

