-- ==== Sys2Proof/Decode.lean ====
section
/-! DEFINITION. From bits to an instruction or a rejection, and back (30_encoding.md). The decoder dispatches on the nibbles
as R65 says; `opcodePatterns` is the mask and match table of R66, kept apart so that the two can be held against each other. -/

namespace Sys2Proof

/-! ### Byte order and fields -/

/-- The word formed by two consecutive bytes, the first being the high one (R43, R60). -/
def wordOfBytes (hi lo : Byte) : Word := hi ++ lo

/-- The byte of a word that lies at the lower address (R43). -/
def highByte (w : Word) : Byte := w.extractLsb' 8 8

/-- The byte of a word that lies at the higher address (R43). -/
def lowByte (w : Word) : Byte := w.extractLsb' 0 8

/-- `n1`, the major opcode, bits 15:12 (R61). -/
def fieldN1 (w : Word) : Nibble := w.extractLsb' 12 4

/-- `x`, bits 11:8 (R62). -/
def fieldX (w : Word) : Nibble := w.extractLsb' 8 4

/-- `y`, bits 7:4 (R62). -/
def fieldY (w : Word) : Nibble := w.extractLsb' 4 4

/-- `n`, bits 3:0, also the minor opcode of family 8 (R62). -/
def fieldN (w : Word) : Nibble := w.extractLsb' 0 4

/-- `kk`, bits 7:0, also the minor opcode of families E and F (R62). -/
def fieldKk (w : Word) : Byte := w.extractLsb' 0 8

/-- `nnn`, bits 11:0 (R62). -/
def fieldNnn (w : Word) : Addr := w.extractLsb' 0 12

/-! ### Decoding -/

/-- Family 0: only the two full words (R67, R68). -/
def decodeFamily0 (w : Word) : Option Instr :=
  if w = 0x00E0#16 then some .cls
  else if w = 0x00EE#16 then some .ret
  else none

/-- Families 5 and 9: the fixed nibble n4 must be 0 (R67, R68). -/
def decodeFixedZero (i : Instr) (w : Word) : Option Instr :=
  if fieldN w = 0#4 then some i else none

/-- Family 8: n4 selects the operation (R67); 8xy0 under `HAS_LD_VX_VY` (R117). -/
def decodeFamily8 (hasLd : Bool) (w : Word) : Option Instr :=
  match (fieldN w).toNat with
  | 0x0 => if hasLd then some (.ldReg (fieldX w) (fieldY w)) else none
  | 0x1 => some (.orReg (fieldX w) (fieldY w))
  | 0x2 => some (.andReg (fieldX w) (fieldY w))
  | 0x3 => some (.xorReg (fieldX w) (fieldY w))
  | 0x4 => some (.addReg (fieldX w) (fieldY w))
  | 0x5 => some (.subReg (fieldX w) (fieldY w))
  | 0x6 => some (.shr (fieldX w) (fieldY w))
  | 0x7 => some (.subnReg (fieldX w) (fieldY w))
  | 0xE => some (.shl (fieldX w) (fieldY w))
  | _ => none

/-- Family E: the low byte selects (R67). -/
def decodeFamilyE (w : Word) : Option Instr :=
  if fieldKk w = 0x9E#8 then some (.skp (fieldX w))
  else if fieldKk w = 0xA1#8 then some (.sknp (fieldX w))
  else none

/-- Family F: the low byte selects (R67). -/
def decodeFamilyF (w : Word) : Option Instr :=
  if fieldKk w = 0x07#8 then some (.ldVxDt (fieldX w))
  else if fieldKk w = 0x0A#8 then some (.ldVxK (fieldX w))
  else if fieldKk w = 0x15#8 then some (.ldDtVx (fieldX w))
  else if fieldKk w = 0x18#8 then some (.ldStVx (fieldX w))
  else if fieldKk w = 0x1E#8 then some (.addI (fieldX w))
  else if fieldKk w = 0x29#8 then some (.ldF (fieldX w))
  else if fieldKk w = 0x33#8 then some (.ldB (fieldX w))
  else if fieldKk w = 0x55#8 then some (.ldMemVx (fieldX w))
  else if fieldKk w = 0x65#8 then some (.ldVxMem (fieldX w))
  else none

/-- The decoder under a choice of `HAS_LD_VX_VY`: dispatch on the major nibble (R65, R67). `none` is CH8's "unrecognized"
variant, the invalid opcode of R72. -/
def decodeWordWith (hasLd : Bool) (w : Word) : Option Instr :=
  match (fieldN1 w).toNat with
  | 0x0 => decodeFamily0 w
  | 0x1 => some (.jp (fieldNnn w))
  | 0x2 => some (.call (fieldNnn w))
  | 0x3 => some (.seImm (fieldX w) (fieldKk w))
  | 0x4 => some (.sneImm (fieldX w) (fieldKk w))
  | 0x5 => decodeFixedZero (.seReg (fieldX w) (fieldY w)) w
  | 0x6 => some (.ldImm (fieldX w) (fieldKk w))
  | 0x7 => some (.addImm (fieldX w) (fieldKk w))
  | 0x8 => decodeFamily8 hasLd w
  | 0x9 => decodeFixedZero (.sneReg (fieldX w) (fieldY w)) w
  | 0xA => some (.ldI (fieldNnn w))
  | 0xB => some (.jpV0 (fieldX w) (fieldNnn w))
  | 0xC => some (.rnd (fieldX w) (fieldKk w))
  | 0xD => some (.drw (fieldX w) (fieldY w) (fieldN w))
  | 0xE => decodeFamilyE w
  | 0xF => decodeFamilyF w
  | _ => none

/-- The decoder of the machine. -/
def decodeWord (w : Word) : Option Instr := decodeWordWith Config.hasLdVxVy w

/-- Decode at the front of a byte sequence: two bytes, high first (R60); the rest is handed back. -/
def decode : List Byte → Option (Instr × List Byte)
  | hi :: lo :: rest => (decodeWord (wordOfBytes hi lo)).map fun i => (i, rest)
  | _ => none

/-! ### Encoding -/

/-- The word of a well-formed instruction, from the patterns of R66. -/
def encode : Instr → Word
  | .cls => 0x00E0#16
  | .ret => 0x00EE#16
  | .jp nnn => 0x1#4 ++ nnn
  | .call nnn => 0x2#4 ++ nnn
  | .seImm x kk => 0x3#4 ++ x ++ kk
  | .sneImm x kk => 0x4#4 ++ x ++ kk
  | .seReg x y => 0x5#4 ++ x ++ y ++ 0x0#4
  | .ldImm x kk => 0x6#4 ++ x ++ kk
  | .addImm x kk => 0x7#4 ++ x ++ kk
  | .ldReg x y => 0x8#4 ++ x ++ y ++ 0x0#4
  | .orReg x y => 0x8#4 ++ x ++ y ++ 0x1#4
  | .andReg x y => 0x8#4 ++ x ++ y ++ 0x2#4
  | .xorReg x y => 0x8#4 ++ x ++ y ++ 0x3#4
  | .addReg x y => 0x8#4 ++ x ++ y ++ 0x4#4
  | .subReg x y => 0x8#4 ++ x ++ y ++ 0x5#4
  | .shr x y => 0x8#4 ++ x ++ y ++ 0x6#4
  | .subnReg x y => 0x8#4 ++ x ++ y ++ 0x7#4
  | .shl x y => 0x8#4 ++ x ++ y ++ 0xE#4
  | .sneReg x y => 0x9#4 ++ x ++ y ++ 0x0#4
  | .ldI nnn => 0xA#4 ++ nnn
  | .jpV0 _ nnn => 0xB#4 ++ nnn
  | .rnd x kk => 0xC#4 ++ x ++ kk
  | .drw x y n => 0xD#4 ++ x ++ y ++ n
  | .skp x => 0xE#4 ++ x ++ 0x9E#8
  | .sknp x => 0xE#4 ++ x ++ 0xA1#8
  | .ldVxDt x => 0xF#4 ++ x ++ 0x07#8
  | .ldVxK x => 0xF#4 ++ x ++ 0x0A#8
  | .ldDtVx x => 0xF#4 ++ x ++ 0x15#8
  | .ldStVx x => 0xF#4 ++ x ++ 0x18#8
  | .addI x => 0xF#4 ++ x ++ 0x1E#8
  | .ldF x => 0xF#4 ++ x ++ 0x29#8
  | .ldB x => 0xF#4 ++ x ++ 0x33#8
  | .ldMemVx x => 0xF#4 ++ x ++ 0x55#8
  | .ldVxMem x => 0xF#4 ++ x ++ 0x65#8

/-- The two bytes of an instruction in memory order (R43, R60). -/
def encodeBytes (i : Instr) : List Byte := [highByte (encode i), lowByte (encode i)]

/-! ### The mask and match table -/

/-- One row of the opcode map: a word selects it when `w &&& mask = bits` (R66). -/
structure OpcodePattern where
  mask : Word
  bits : Word
  deriving DecidableEq, Repr

/-- Whether a word selects a row (R66). -/
def OpcodePattern.selects (p : OpcodePattern) (w : Word) : Bool := w &&& p.mask == p.bits

/-- Rows 1 to 10 of R66. -/
def opcodePatternsA : List OpcodePattern :=
  [⟨0xFFFF, 0x00E0⟩, ⟨0xFFFF, 0x00EE⟩, ⟨0xF000, 0x1000⟩, ⟨0xF000, 0x2000⟩, ⟨0xF000, 0x3000⟩,
   ⟨0xF000, 0x4000⟩, ⟨0xF00F, 0x5000⟩, ⟨0xF000, 0x6000⟩, ⟨0xF000, 0x7000⟩, ⟨0xF00F, 0x8000⟩]

/-- Rows 11 to 23 of R66. -/
def opcodePatternsB : List OpcodePattern :=
  [⟨0xF00F, 0x8001⟩, ⟨0xF00F, 0x8002⟩, ⟨0xF00F, 0x8003⟩, ⟨0xF00F, 0x8004⟩, ⟨0xF00F, 0x8005⟩,
   ⟨0xF00F, 0x8006⟩, ⟨0xF00F, 0x8007⟩, ⟨0xF00F, 0x800E⟩, ⟨0xF00F, 0x9000⟩, ⟨0xF000, 0xA000⟩,
   ⟨0xF000, 0xB000⟩, ⟨0xF000, 0xC000⟩, ⟨0xF000, 0xD000⟩]

/-- Rows 24 to 34 of R66. -/
def opcodePatternsC : List OpcodePattern :=
  [⟨0xF0FF, 0xE09E⟩, ⟨0xF0FF, 0xE0A1⟩, ⟨0xF0FF, 0xF007⟩, ⟨0xF0FF, 0xF00A⟩, ⟨0xF0FF, 0xF015⟩, ⟨0xF0FF, 0xF018⟩,
   ⟨0xF0FF, 0xF01E⟩, ⟨0xF0FF, 0xF029⟩, ⟨0xF0FF, 0xF033⟩, ⟨0xF0FF, 0xF055⟩, ⟨0xF0FF, 0xF065⟩]

/-- The complete opcode map, 34 rows (R66). -/
def opcodePatterns : List OpcodePattern := opcodePatternsA ++ opcodePatternsB ++ opcodePatternsC

/-! ### The host's question -/

/-- The 16-bit word the host means by `nbits` bits of `w`, the bits above being 0. Bit 0 of the table is bit 0 of the one word. -/
def tableWord (nbits w : Nat) : Word := BitVec.ofNat 16 (w % 2 ^ nbits)

/-- What the decoder reads from the table's word, laid out as the hardware stores it: high byte first (R43). -/
def decodeTableWord (nbits w : Nat) : Option Instr :=
  (decode [highByte (tableWord nbits w), lowByte (tableWord nbits w)]).map fun r => r.1

end Sys2Proof
end

