-- ==== Sys2Proof/Machine/Memory.lean ====
section
/-! DEFINITION. The 4096 byte cells (20_memory.md R40, R41), held as the cells that differ from the contents after construction
with an empty ROM, addresses rising. Range checks belong to the instructions (R47; Machine/Ops.lean). -/

namespace Sys2Proof.Machine

/-! ### The font -/

/-- Glyphs 0 to 3 of the default FONT (R31). PRESUMED, log 2. -/
def fontA : List Byte :=
  [0xF0, 0x90, 0x90, 0x90, 0xF0, 0x20, 0x60, 0x20, 0x20, 0x70, 0xF0, 0x10, 0xF0, 0x80, 0xF0, 0xF0, 0x10, 0xF0, 0x10, 0xF0]

/-- Glyphs 4 to 7 (R31). PRESUMED, log 2. -/
def fontB : List Byte :=
  [0x90, 0x90, 0xF0, 0x10, 0x10, 0xF0, 0x80, 0xF0, 0x10, 0xF0, 0xF0, 0x80, 0xF0, 0x90, 0xF0, 0xF0, 0x10, 0x20, 0x40, 0x40]

/-- Glyphs 8 to B (R31). PRESUMED, log 2. -/
def fontC : List Byte :=
  [0xF0, 0x90, 0xF0, 0x90, 0xF0, 0xF0, 0x90, 0xF0, 0x10, 0xF0, 0xF0, 0x90, 0xF0, 0x90, 0x90, 0xE0, 0x90, 0xE0, 0x90, 0xE0]

/-- Glyphs C to F (R31). PRESUMED, log 2. -/
def fontD : List Byte :=
  [0xF0, 0x80, 0x80, 0x80, 0xF0, 0xE0, 0x90, 0x90, 0x90, 0xE0, 0xF0, 0x80, 0xF0, 0x80, 0xF0, 0xF0, 0x80, 0xF0, 0x80, 0x80]

/-- The default of the parameter FONT, 80 bytes, 5 a glyph, digits 0 to F (R27, R31, D3). -/
def font : List Byte := fontA ++ fontB ++ fontC ++ fontD

/-! ### Memory -/

/-- Memory as a list of (address, byte) pairs in the canonical form `Memory.wf`. -/
abbrev Memory := List Host.Cell

/-- What an unlisted address reads as: the font at 0x000 to 0x04F (R27, R31) and 0 elsewhere (R30, D2; log 1). -/
def resetByte (a : Nat) : Byte := font.getD a 0#8

/-- The byte at an address. -/
def Memory.read : Memory → Nat → Byte
  | [], a => resetByte a
  | c :: m, a => if c.1 = a then c.2 else Memory.read m a

/-- Memory without any entry for an address. -/
def Memory.erase (m : Memory) (a : Nat) : Memory := m.filter fun c => c.1 != a

/-- Put an entry before the first one with a higher address. -/
def Memory.insert : Memory → Nat → Byte → Memory
  | [], a, b => [(a, b)]
  | c :: m, a, b => if a < c.1 then (a, b) :: c :: m else c :: Memory.insert m a b

/-- Write one byte to a cell (R46, R49). There is no cell at or above 0x1000, so nothing is written there; every instruction
checks the range first (R47). -/
def Memory.write (m : Memory) (a : Nat) (b : Byte) : Memory :=
  if a < Config.memSize then
    if b = resetByte a then m.erase a else (m.erase a).insert a b
  else m

/-- Write consecutive bytes in ascending address order (R44, R46). -/
def Memory.writeBytes : Memory → Nat → List Byte → Memory
  | m, _, [] => m
  | m, a, b :: bs => Memory.writeBytes (m.write a b) (a + 1) bs

/-- The canonical form: addresses strictly rising, all of existing cells, no entry equal to what an unlisted address reads as. -/
abbrev Memory.wf (m : Memory) : Prop :=
  (m.map fun c => c.1).Pairwise (· < ·) ∧ ∀ c ∈ m, c.1 < Config.memSize ∧ c.2 ≠ resetByte c.1

end Sys2Proof.Machine
end

