-- ==== Sys2Proof/Machine/State.lean ====
section
/-! DEFINITION. Everything the spec gives the machine (10_state.md), as plain data, its value after construction (R30), and the
reasons an operation can end without a next state. -/

namespace Sys2Proof.Machine

/-- The key-wait latch, a tagged value with three cases (R18, R160, R167). -/
inductive Latch where
  /-- Not waiting, nothing latched. -/
  | running
  /-- Blocked; `r` is the register Fx0A named. -/
  | awaitingKey (r : Nibble)
  /-- A write of key `k` to `V[r]` is latched for the start of the next step. -/
  | pending (r k : Nibble)
  deriving DecidableEq, Repr

/-- The four sticky causes with their recorded values (60_exceptions.md section 2, R202). -/
inductive StickyCause where
  /-- Code 2: a fetch with PC at or above 0xFFF; records PC (R203). -/
  | fetchAddressOutOfRange (pc : Word)
  /-- Code 3: Fx33, Fx55, Fx65 or Dxyn whose highest address exceeds 0xFFF; records that unbounded address (R204). -/
  | dataAddressOutOfRange (a : Nat)
  /-- Code 4: 2nnn with SP = 15; records the PC of the CALL (R205). -/
  | stackOverflow (pc : Word)
  /-- Code 5: 00EE with SP = 0; records the PC of the RET (R206). -/
  | stackUnderflow (pc : Word)
  deriving DecidableEq, Repr

/-- The display: its dimensions (R6, fixed at construction) and the row-major indices `r * width + c` of the lit cells (R23),
strictly rising. The same grid of Booleans as the spec's, with only the lit cells listed (log 14). -/
structure Display where
  width : Nat
  height : Nat
  lit : List Nat
  deriving DecidableEq, Repr

/-- The state of one instance of the core. -/
structure State where
  /-- V0..VF (R10). -/
  v : Vector Byte 16
  /-- The index register I (R14). -/
  i : Word
  /-- The program counter (R12). -/
  pc : Word
  /-- The stack pointer, 0..15 (R16). -/
  sp : Nibble
  /-- The return-address cells `stack[0..15]` (R17). -/
  stack : Vector Word 16
  /-- The delay timer (R15). -/
  dt : Byte
  /-- The sound timer (R15). -/
  st : Byte
  /-- `mem[0x000..0xFFF]` (R24, R40). -/
  mem : Memory
  /-- `key[0..15]`, true while held (R22). -/
  keys : Vector Bool 16
  /-- The display buffer with W and H (R23, R6). -/
  disp : Display
  /-- The key-wait latch (R18). -/
  latch : Latch
  /-- The render flag (R19). -/
  render : Bool
  /-- The fault latch (R20). -/
  fault : Option StickyCause
  /-- The model's own: the `invalid_opcode` events emitted so far, newest first (R185; log 11). -/
  reports : List Word
  /-- The model's own: random bytes supplied by the environment and not yet drawn, oldest first (R127; log 10). -/
  randomInput : List Byte
  /-- The model's own: how many free random bytes were drawn after `randomInput` ran out (R127; log 10). -/
  drawCount : Nat
  deriving DecidableEq, Repr

/-- The display of a fresh instance: every cell unlit (R30). -/
def Display.blank (width height : Nat) : Display := { width := width, height := height, lit := [] }

/-- The state after construction with the given dimensions and memory (R30). Values CH8 does not give follow D2: log 1. -/
def State.initial (width height : Nat) (mem : Memory) : State where
  v := Vector.replicate 16 0#8
  i := 0#16
  pc := BitVec.ofNat 16 Config.programStart
  sp := 0#4
  stack := Vector.replicate 16 0#16
  dt := 0#8
  st := 0#8
  mem := mem
  keys := Vector.replicate 16 false
  disp := Display.blank width height
  latch := .running
  render := false
  fault := none
  reports := []
  randomInput := []
  drawCount := 0

/-- The machine right after construction with the default dimensions, the default FONT and an empty ROM (R30, R181; log 13). -/
def State.reset : State := State.initial Config.defaultWidth Config.defaultHeight []

/-- Reasons to stop with a fault: NONE. Every fault of the spec is a state of the machine, recorded in `State.fault` or reported,
from which the spec says what each further operation does (R88, R201, R202, R208), so a step always has a next state. Safe: nothing is
hidden, since claims read `State.fault` (log 9). -/
inductive Fault
  deriving DecidableEq, Repr

/-- Reasons why the model gives an operation no transition. -/
inductive Refusal where
  /-- Raised by the dispatcher for an instruction that has no meaning yet, by its mnemonic. Safe: nothing is proved of it. -/
  | notModelled (mnemonic : String)
  /-- Raised by `construct` for a ROM longer than 3584 bytes: no instance is produced (R181, D4). Safe. -/
  | romTooLong
  /-- Raised by `construct` for W < 1 or H < 1 (R181, R6). Safe. -/
  | displayTooSmall
  /-- Raised by `checkKeyIndex` for Ex9E or ExA1 with `V[x]` above 15 under `KEY_INDEX_POLICY = refuse`, which is not the spec's value, so never by
  `exec` or `step` (R7, D13). Safe. -/
  | keyIndexAbove15
  /-- Raised by `invoke` when the host invokes two operations on one instance at once: they have no meaning (R187, D32). Safe. -/
  | concurrentOperations
  deriving DecidableEq, Repr

/-- The answer of an operation on the machine. -/
abbrev Result := Host.Outcome State Fault Refusal

end Sys2Proof.Machine
end

