-- ==== Sys2Proof/Machine/Ops.lean ====
section
/-! DEFINITION. The named operations every meaning is written with: access to registers, stack, keys, memory and display, the
sequential PC update, the sticky fault, the invalid-opcode report, the random draw, and the parts of the step cycle that precede
the fetch (40_step_cycle.md). -/

namespace Sys2Proof.Machine

/-! ### Registers -/

/-- `V[r]` (R10). -/
def State.reg (s : State) (r : Nibble) : Byte := s.v[r.toNat]'(r.isLt)

/-- `V[r] <- b` (R10). No register is hard-wired. -/
def State.setReg (s : State) (r : Nibble) (b : Byte) : State := { s with v := s.v.set r.toNat b (r.isLt) }

/-- `I <- w` (R14). -/
def State.setI (s : State) (w : Word) : State := { s with i := w }

/-- `PC <- w` (R12). -/
def State.setPc (s : State) (w : Word) : State := { s with pc := w }

/-- `PC <- u16(PC + k)` (R86, R106). -/
def State.advance (s : State) (k : Word) : State := s.setPc (s.pc + k)

/-- `DT <- b` (R15). -/
def State.setDt (s : State) (b : Byte) : State := { s with dt := b }

/-- `ST <- b` (R15). -/
def State.setSt (s : State) (b : Byte) : State := { s with st := b }

/-- `latch <- l` (R18). -/
def State.setLatch (s : State) (l : Latch) : State := { s with latch := l }

/-- `render <- b` (R19). -/
def State.setRender (s : State) (b : Bool) : State := { s with render := b }

/-- Replace the memory (R24). -/
def State.setMem (s : State) (m : Memory) : State := { s with mem := m }

/-- Replace the display buffer (R23). -/
def State.setDisp (s : State) (d : Display) : State := { s with disp := d }

/-! ### Call stack -/

/-- `stack[j]` (R17). -/
def State.stackAt (s : State) (j : Nibble) : Word := s.stack[j.toNat]'(j.isLt)

/-- `SP <- SP + 1; stack[SP] <- w`: pre-increment (R17, R103). -/
def State.push (s : State) (w : Word) : State :=
  { s with sp := s.sp + 1#4, stack := s.stack.set (s.sp + 1#4).toNat w ((s.sp + 1#4).isLt) }

/-- `SP <- SP - 1`; the popped cell keeps its contents (R102). -/
def State.pop (s : State) : State := { s with sp := s.sp - 1#4 }

/-! ### Keyboard -/

/-- `key[j]`, the level last set by the host (R22). -/
def State.key (s : State) (j : Nibble) : Bool := s.keys[j.toNat]'(j.isLt)

/-- `key[j] <- b`, a host operation's effect (R161, R163). -/
def State.setKey (s : State) (j : Nibble) (b : Bool) : State := { s with keys := s.keys.set j.toNat b (j.isLt) }

/-! ### Display cells -/

/-- Row-major index of cell (column `c`, row `r`) (R23). -/
def Display.index (d : Display) (r c : Nat) : Nat := r * d.width + c

/-- `disp[r][c]` (R23). -/
def Display.cell (d : Display) (r c : Nat) : Bool := d.lit.contains (d.index r c)

/-- Put an index before the first higher one. -/
def insertIndex (k : Nat) : List Nat → List Nat
  | [] => [k]
  | h :: t => if k < h then k :: h :: t else h :: insertIndex k t

/-- `disp[r][c] <- b` (R173), keeping the indices strictly rising. -/
def Display.setCell (d : Display) (r c : Nat) (b : Bool) : Display :=
  { d with
    lit :=
      if b then insertIndex (d.index r c) (d.lit.filter fun k => k != d.index r c)
      else d.lit.filter fun k => k != d.index r c }

/-- Every cell unlit, dimensions kept (R100). -/
def Display.clear (d : Display) : Display := Display.blank d.width d.height

/-- The display's form: positive dimensions (R6), lit cells strictly rising and on the display. -/
abbrev Display.wf (d : Display) : Prop :=
  1 ≤ d.width ∧ 1 ≤ d.height ∧ d.lit.Pairwise (· < ·) ∧ ∀ k ∈ d.lit, k < d.width * d.height

/-! ### Conditions -/

/-- Raise a sticky cause: set the fault latch and write nothing else; PC stays at the instruction (R202). It ends the instruction, and
since the fault is a state of the machine the answer is a next state. There is no return from it (R209). -/
def State.raise (s : State) (c : StickyCause) : Result := .next { s with fault := some c }

/-- Run `k` if the highest address `top` an instruction touches is a cell, else raise `DataAddressOutOfRange` before anything is
written (R47, R204). -/
def State.checkData (s : State) (top : Nat) (k : Result) : Result :=
  if top > Config.maxAddr then s.raise (.dataAddressOutOfRange top) else k

/-- Emit the diagnostic event `invalid_opcode(w)`; nothing else changes (R89, R201). -/
def State.reportInvalid (s : State) (w : Word) : State := { s with reports := w :: s.reports }

/-- The cause codes of 60_exceptions.md section 2 (D24); 1 is `InvalidOpcode`. -/
def StickyCause.code : StickyCause → Nat
  | .fetchAddressOutOfRange _ => 2
  | .dataAddressOutOfRange _ => 3
  | .stackOverflow _ => 4
  | .stackUnderflow _ => 5

/-- The code of the report that is not sticky (60_exceptions.md section 2). -/
def invalidOpcodeCode : Nat := 1

/-! ### The random draw -/

/-- The byte the next `RandomByte()` draws: the oldest supplied one, else a free value (R127; log 10). -/
def State.nextRandom (s : State) : Byte :=
  match s.randomInput with
  | b :: _ => b
  | [] => Config.randomByte s.drawCount

/-- The state after that draw: the supplied byte is used up, or the count of free draws goes on (R127; log 10). -/
def State.afterDraw (s : State) : State :=
  match s.randomInput with
  | _ :: bs => { s with randomInput := bs }
  | [] => { s with drawCount := s.drawCount + 1 }

/-! ### The step cycle before the fetch -/

/-- A timer's decrement, clamped at zero (R82). -/
def tick (t : Byte) : Byte := if t = 0#8 then 0#8 else t - 1#8

/-- Steps 1 and 2 of the cycle: clear the render flag (R81), decrement DT and ST (R82). -/
def State.beginStep (s : State) : State := { s with render := false, dt := tick s.dt, st := tick s.st }

/-- The output `awaiting_key`: true exactly while the latch is `AwaitingKey` (R165). -/
def State.awaitingKey (s : State) : Bool :=
  match s.latch with
  | .awaitingKey _ => true
  | .running | .pending _ _ => false

/-- Whether a step request does nothing at all (R88, D14, D15). -/
def State.ignoresStep (s : State) : Bool := s.fault.isSome || s.awaitingKey

/-- Step 3 of the cycle: the state after a latched key write is committed, or `none` if nothing is latched (R83, R164). -/
def State.commitPending (s : State) : Option State :=
  match s.latch with
  | .pending r k => some ((s.setReg r (k.setWidth 8)).setLatch .running)
  | .running | .awaitingKey _ => none

end Sys2Proof.Machine
end

