-- ==== Sys2Proof/Machine/Flags.lean ====
section
/-! DEFINITION. The flag values and their one home, VF (10_state.md R11, R21; 42_skip_load_alu.md R116). There is no condition-code
register. -/

namespace Sys2Proof.Machine

/-- A condition used as a number (00_scope.md section 6.1). -/
def flagByte (b : Bool) : Byte := if b then 1#8 else 0#8

/-- Carry: unsigned overflow of the 8-bit sum (R121). -/
def carryOut (a b : Byte) : Bool := decide (a.toNat + b.toNat > 255)

/-- No borrow in `a - b`, equality included (R122, R124). -/
def noBorrow (a b : Byte) : Bool := decide (a.toNat ≥ b.toNat)

/-- The bit SHR shifts out, bit 0 (R123). -/
def lowBit (a : Byte) : Bool := a.getLsbD 0

/-- The bit SHL shifts out, bit 7 (R125). -/
def highBit (a : Byte) : Bool := a.getLsbD 7

/-- `VF <- b ? 1 : 0` (R11). -/
def State.setVF (s : State) (b : Bool) : State := s.setReg vfIndex (flagByte b)

/-- Write the result to `V[x]` and then the flag to VF, so that with `x = 15` the flag stays (R11, R116). -/
def State.setResultThenFlag (s : State) (x : Nibble) (result : Byte) (flag : Bool) : State := (s.setReg x result).setVF flag

end Sys2Proof.Machine
end

