-- ==== Sys2Proof/Machine/Alu.lean ====
section
/-! DEFINITION. Load and add immediate, the 8xy* operations, and RND (42_skip_load_alu.md R114 to R127). Source registers are read
before anything is written (R116). -/

namespace Sys2Proof.Machine

/-- 6xkk (R114). -/
def execLdImm (x : Nibble) (kk : Byte) (s : State) : Result := .next ((s.setReg x kk).advance 2#16)

/-- 7xkk: wraps, no flag (R115). -/
def execAddImm (x : Nibble) (kk : Byte) (s : State) : Result := .next ((s.setReg x (s.reg x + kk)).advance 2#16)

/-- 8xy0: no flag (R117). PRESUMED, log 3. -/
def execLdReg (x y : Nibble) (s : State) : Result := .next ((s.setReg x (s.reg y)).advance 2#16)

/-- 8xy1: clears VF (R118). -/
def execOrReg (x y : Nibble) (s : State) : Result :=
  .next ((s.setResultThenFlag x (s.reg x ||| s.reg y) false).advance 2#16)

/-- 8xy2: clears VF (R119). -/
def execAndReg (x y : Nibble) (s : State) : Result :=
  .next ((s.setResultThenFlag x (s.reg x &&& s.reg y) false).advance 2#16)

/-- 8xy3: clears VF (R120). -/
def execXorReg (x y : Nibble) (s : State) : Result :=
  .next ((s.setResultThenFlag x (s.reg x ^^^ s.reg y) false).advance 2#16)

/-- 8xy4: VF is the carry (R121). -/
def execAddReg (x y : Nibble) (s : State) : Result :=
  .next ((s.setResultThenFlag x (s.reg x + s.reg y) (carryOut (s.reg x) (s.reg y))).advance 2#16)

/-- 8xy5: VF is 1 when no borrow occurred (R122). -/
def execSubReg (x y : Nibble) (s : State) : Result :=
  .next ((s.setResultThenFlag x (s.reg x - s.reg y) (noBorrow (s.reg x) (s.reg y))).advance 2#16)

/-- 8xy6: `V[x]` in place, `V[y]` ignored (R74, R123). -/
def execShr (x _y : Nibble) (s : State) : Result :=
  .next ((s.setResultThenFlag x (s.reg x >>> 1) (lowBit (s.reg x))).advance 2#16)

/-- 8xy7: the operands of 8xy5 exchanged, the destination still `V[x]` (R124). -/
def execSubnReg (x y : Nibble) (s : State) : Result :=
  .next ((s.setResultThenFlag x (s.reg y - s.reg x) (noBorrow (s.reg y) (s.reg x))).advance 2#16)

/-- 8xyE: `V[x]` in place, `V[y]` ignored (R74, R125). -/
def execShl (x _y : Nibble) (s : State) : Result :=
  .next ((s.setResultThenFlag x (s.reg x <<< 1) (highBit (s.reg x))).advance 2#16)

/-- Cxkk: a fresh random byte AND `kk` (R127). -/
def execRnd (x : Nibble) (kk : Byte) (s : State) : Result :=
  .next ((s.afterDraw.setReg x (s.nextRandom &&& kk)).advance 2#16)

end Sys2Proof.Machine
end

