-- ==== Sys2Proof/Machine/Operands.lean ====
section
/-! DEFINITION. The operand forms: unsigned immediates, registers, and memory at I (30_encoding.md R64, 43_memory_index.md R146). -/

namespace Sys2Proof.Machine

/-- `zext_16` of an address field (R64). -/
def zextAddr (nnn : Addr) : Word := nnn.setWidth 16

/-- `zext_16` of a byte (R104, R141, R142). -/
def zextByte (b : Byte) : Word := b.setWidth 16

/-- The effective address `I + j`, on unbounded integers (R47, R146). -/
def State.dataAddr (s : State) (j : Nat) : Nat := s.i.toNat + j

/-- The register with number `j`; only `0..15` occur (R144, R145). -/
def regOfNat (j : Nat) : Nibble := BitVec.ofNat 4 j

/-- `V[0..x]` in ascending order, the operand of Fx55 (R144). -/
def State.regsUpTo (s : State) (x : Nibble) : List Byte := (List.range (x.toNat + 1)).map fun j => s.reg (regOfNat j)

/-- `V[j] <- mem[base + j]` for `j = 0..n-1`, ascending, the operand of Fx65 (R145). -/
def State.loadRegs (s : State) (base : Nat) : Nat → State
  | 0 => s
  | n + 1 => (State.loadRegs s base n).setReg (regOfNat n) (s.mem.read (base + n))

/-- The low nibble of an index register, the key that is tested (R153, R154, D13). DEDUCED, log 6. -/
def keyIndex (b : Byte) : Nibble := b.extractLsb' 0 4

/-- Run `k` on the key an index register selects, under a choice of `KEY_INDEX_POLICY`: the low nibble, which under `refuse` a value above 15
does not reach (R7, R153, R154, D13; log 6, log 35). -/
def checkKeyIndex (policy : Config.KeyIndexPolicy) (b : Byte) (k : Nibble → Result) : Result :=
  match policy with
  | .mask => k (keyIndex b)
  | .refuse => if b.toNat > 15 then .refused .keyIndexAbove15 else k (keyIndex b)

/-- The three decimal digits hundreds, tens, ones, each a byte 0 to 9 (R143). -/
def bcdDigits (b : Byte) : List Byte :=
  [BitVec.ofNat 8 (b.toNat / 100), BitVec.ofNat 8 (b.toNat / 10 % 10), BitVec.ofNat 8 (b.toNat % 10)]

/-- The address of the glyph of a value, exact and not masked: `5 * V[x]` (R142, D27). -/
def glyphAddr (b : Byte) : Word := zextByte b * 5#16

end Sys2Proof.Machine
end

