-- ==== Sys2Proof/Machine/Control.lean ====
section
/-! DEFINITION. CLS, RET, JP, CALL, JP V0 (41_control_flow.md). -/

namespace Sys2Proof.Machine

/-- 00E0: clear every cell, set `render` unconditionally (R100). -/
def execCls (s : State) : Result := .next (((s.setDisp s.disp.clear).setRender true).advance 2#16)

/-- 00EE: PC becomes the popped CALL's address plus 2; an empty stack faults before anything is read (R102, R206). -/
def execRet (s : State) : Result :=
  if s.sp = 0#4 then s.raise (.stackUnderflow s.pc)
  else .next (s.pop.setPc (s.stackAt s.sp + 2#16))

/-- 1nnn (R101). -/
def execJp (nnn : Addr) (s : State) : Result := .next (s.setPc (zextAddr nnn))

/-- 2nnn: push the address of this CALL; a full stack faults before SP moves (R103, R205). -/
def execCall (nnn : Addr) (s : State) : Result :=
  if s.sp = 15#4 then s.raise (.stackOverflow s.pc)
  else .next ((s.push s.pc).setPc (zextAddr nnn))

/-- Bnnn: the register added is `V[x]`, and the sum is not cut to 12 bits (R74, R104, D12). -/
def execJpV0 (x : Nibble) (nnn : Addr) (s : State) : Result := .next (s.setPc (zextAddr nnn + zextByte (s.reg x)))

end Sys2Proof.Machine
end

