-- ==== Sys2Proof/Machine/MemIndex.lean ====
section
/-! DEFINITION. Annn, Fx1E, Fx29, Fx33, Fx55, Fx65 (43_memory_index.md). The range check precedes every write (R47). -/

namespace Sys2Proof.Machine

/-- Annn (R140). -/
def execLdI (nnn : Addr) (s : State) : Result := .next ((s.setI (zextAddr nnn)).advance 2#16)

/-- Fx1E: 16-bit add that wraps, VF untouched (R141, D11). -/
def execAddI (x : Nibble) (s : State) : Result := .next ((s.setI (s.i + zextByte (s.reg x))).advance 2#16)

/-- Fx29 (R142). -/
def execLdF (x : Nibble) (s : State) : Result := .next ((s.setI (glyphAddr (s.reg x))).advance 2#16)

/-- Fx33: I is unchanged (R143). -/
def execLdB (x : Nibble) (s : State) : Result :=
  s.checkData (s.dataAddr 2)
    (.next ((s.setMem (s.mem.writeBytes (s.dataAddr 0) (bcdDigits (s.reg x)))).advance 2#16))

/-- Fx55: I ends at its old value + x + 1 (R144). -/
def execLdMemVx (x : Nibble) (s : State) : Result :=
  s.checkData (s.dataAddr x.toNat)
    (.next (((s.setMem (s.mem.writeBytes (s.dataAddr 0) (s.regsUpTo x))).setI (s.i + (x.setWidth 16 + 1#16))).advance 2#16))

/-- Fx65: the same advance of I (R145). -/
def execLdVxMem (x : Nibble) (s : State) : Result :=
  s.checkData (s.dataAddr x.toNat)
    (.next (((s.loadRegs (s.dataAddr 0) (x.toNat + 1)).setI (s.i + (x.setWidth 16 + 1#16))).advance 2#16))

end Sys2Proof.Machine
end

