-- ==== Sys2Proof/Machine/Sprite.lean ====
section
/-! DEFINITION. The sprite engine (46_sprite_engine.md) and DRW, the instruction that calls it (44_timer_input.md R155). -/

namespace Sys2Proof.Machine

/-- One source bit on one cell: XOR, and OR (old AND new) into the running collision flag (R173). -/
def plot (bit : Bool) (r c : Nat) (acc : Display × Bool) : Display × Bool :=
  (acc.1.setCell r c (acc.1.cell r c != bit), acc.2 || (acc.1.cell r c && bit))

/-- One sprite column of a row byte: bit `7 - col` at column `(x0 + col) mod W`, row `ry mod H` (R172). -/
def plotColumn (b : Byte) (x0 ry col : Nat) (acc : Display × Bool) : Display × Bool :=
  plot (b.getLsbD (7 - col)) (ry % acc.1.height) ((x0 + col) % acc.1.width) acc

/-- The eight columns of a row, the most significant bit first (R172, R175). -/
def blitRow (b : Byte) (x0 ry : Nat) (acc : Display × Bool) : Display × Bool :=
  (List.range 8).foldl (fun a col => plotColumn b x0 ry col a) acc

/-- `Blit` without its render flag: rows ascending, one bit at a time (R175, R176). -/
def blit (d : Display) (m : Memory) (base x0 y0 n : Nat) : Display × Bool :=
  (List.range n).foldl (fun a row => blitRow (m.read (base + row)) x0 (y0 + row) a) (d, false)

/-- The engine applied to the state: origin `V[x]`, `V[y]`, sprite at I (R170). -/
def State.blitResult (s : State) (x y n : Nibble) : Display × Bool :=
  blit s.disp s.mem (s.dataAddr 0) (s.reg x).toNat (s.reg y).toNat n.toNat

/-- The effect of DRW once its addresses are checked: draw, set `render` whatever `n` is (R174, R177), then VF (R155). -/
def State.drawSprite (s : State) (x y n : Nibble) : State :=
  (((s.setDisp (s.blitResult x y n).1).setRender true).setVF (s.blitResult x y n).2).advance 2#16

/-- Dxyn: with `n = 0` no memory is read, so no address fault (R155, R177, D28). -/
def execDrw (x y n : Nibble) (s : State) : Result :=
  if n = 0#4 then .next (s.drawSprite x y n)
  else s.checkData (s.dataAddr (n.toNat - 1)) (.next (s.drawSprite x y n))

end Sys2Proof.Machine
end

