-- ==== Sys2Proof/Machine/Skip.lean ====
section
/-! DEFINITION. The four register skips (42_skip_load_alu.md R110 to R113). Polarities PRESUMED by the spec (D18), log 5. -/

namespace Sys2Proof.Machine

/-- Advance by 4 when the condition holds, else by 2 (R13, R86). -/
def State.skipIf (s : State) (b : Bool) : State := s.advance (if b then 4#16 else 2#16)

/-- 3xkk (R110). -/
def execSeImm (x : Nibble) (kk : Byte) (s : State) : Result := .next (s.skipIf (s.reg x == kk))

/-- 4xkk (R111). -/
def execSneImm (x : Nibble) (kk : Byte) (s : State) : Result := .next (s.skipIf (s.reg x != kk))

/-- 5xy0 (R112). -/
def execSeReg (x y : Nibble) (s : State) : Result := .next (s.skipIf (s.reg x == s.reg y))

/-- 9xy0 (R113). -/
def execSneReg (x y : Nibble) (s : State) : Result := .next (s.skipIf (s.reg x != s.reg y))

end Sys2Proof.Machine
end

