-- ==== Sys2Proof/Machine/TimerInput.lean ====
section
/-! DEFINITION. Fx07, Fx15, Fx18, Ex9E, ExA1, Fx0A (44_timer_input.md). They run after this step's timer decrement (R82, R91). -/

namespace Sys2Proof.Machine

/-- Fx07 (R150). -/
def execLdVxDt (x : Nibble) (s : State) : Result := .next ((s.setReg x s.dt).advance 2#16)

/-- Fx15 (R151). -/
def execLdDtVx (x : Nibble) (s : State) : Result := .next ((s.setDt (s.reg x)).advance 2#16)

/-- Fx18 (R152). -/
def execLdStVx (x : Nibble) (s : State) : Result := .next ((s.setSt (s.reg x)).advance 2#16)

/-- Ex9E under a choice of `KEY_INDEX_POLICY`: skip if the key is pressed (R153). -/
def execSkpWith (policy : Config.KeyIndexPolicy) (x : Nibble) (s : State) : Result :=
  checkKeyIndex policy (s.reg x) fun j => .next (s.skipIf (s.key j))

/-- Ex9E (R153). -/
def execSkp (x : Nibble) (s : State) : Result := execSkpWith Config.keyIndexPolicy x s

/-- ExA1 under a choice of `KEY_INDEX_POLICY`: skip if the key is not pressed (R154). -/
def execSknpWith (policy : Config.KeyIndexPolicy) (x : Nibble) (s : State) : Result :=
  checkKeyIndex policy (s.reg x) fun j => .next (s.skipIf (!s.key j))

/-- ExA1 (R154). -/
def execSknp (x : Nibble) (s : State) : Result := execSknpWith Config.keyIndexPolicy x s

/-- Fx0A: wait for a press notification; PC moves at once, `V[x]` is written by the commit step (R156, R162). -/
def execLdVxK (x : Nibble) (s : State) : Result := .next ((s.setLatch (.awaitingKey x)).advance 2#16)

end Sys2Proof.Machine
end

