-- ==== Sys2Proof/Machine/Fetch.lean ====
section
/-! DEFINITION. Steps 4 and 5 of the cycle up to the dispatch, fetch and decode (40_step_cycle.md R84, R85), and the order of the whole cycle
(R87). -/

namespace Sys2Proof.Machine

/-- What fetch and decode find, in the order of the checks (R207). -/
inductive Fetched where
  /-- PC or PC + 1 is not the address of a cell (R203). -/
  | outOfRange (pc : Word)
  /-- The word matches no pattern (R201). -/
  | invalid (w : Word)
  /-- An instruction to execute. -/
  | instr (i : Instr)
  deriving DecidableEq, Repr

/-- The word at PC: `mem[PC]` is the high byte (R43, R84). -/
def State.fetchWord (s : State) : Word := wordOfBytes (s.mem.read s.pc.toNat) (s.mem.read (s.pc.toNat + 1))

/-- Whether both bytes of a fetch lie in memory: PC at most 0xFFE (R47, R84). -/
def State.canFetch (s : State) : Bool := decide (s.pc.toNat + 1 ≤ Config.maxAddr)

/-- Fetch, then decode under a choice of `HAS_LD_VX_VY` (R7); no alignment check (R45, R84, R85). PC is not changed. -/
def State.fetchDecodeWith (hasLd : Bool) (s : State) : Fetched :=
  if s.canFetch then
    match decodeWordWith hasLd s.fetchWord with
    | some i => .instr i
    | none => .invalid s.fetchWord
  else .outOfRange s.pc

/-- Fetch and decode of the machine, with the spec's value of `HAS_LD_VX_VY`. -/
def State.fetchDecode (s : State) : Fetched := s.fetchDecodeWith Config.hasLdVxVy

/-- The order of one step (R87, R207) around a way to fetch and decode and a way to execute: the ignore gate, steps 1 and 2, the deferred
commit, fetch, decode, execute. -/
def State.cycle (fetched : State → Fetched) (execute : Instr → State → Result) (s : State) : Result :=
  if s.ignoresStep then .next s
  else
    match s.beginStep.commitPending with
    | some t => .next t
    | none =>
      match fetched s.beginStep with
      | .outOfRange pc => s.beginStep.raise (.fetchAddressOutOfRange pc)
      | .invalid w => .next (s.beginStep.reportInvalid w)
      | .instr i => execute i s.beginStep

end Sys2Proof.Machine
end

