-- ==== Sys2Proof/Machine/Variant.lean ====
section
/-! DEFINITION. Execution under a choice of `KEY_INDEX_POLICY` (00_scope.md R7, D13). -/

namespace Sys2Proof.Machine

/-- The dispatch with `KEY_INDEX_POLICY` as an argument: only Ex9E and ExA1 look at it (R7). -/
def execWith (policy : Config.KeyIndexPolicy) (i : Instr) (s : State) : Result :=
  match i with
  | .skp x => execSkpWith policy x s
  | .sknp x => execSknpWith policy x s
  | .cls | .ret | .jp _ | .call _ | .seImm _ _ | .sneImm _ _ | .seReg _ _ | .ldImm _ _ | .addImm _ _ | .ldReg _ _
  | .orReg _ _ | .andReg _ _ | .xorReg _ _ | .addReg _ _ | .subReg _ _ | .shr _ _ | .subnReg _ _ | .shl _ _
  | .sneReg _ _ | .ldI _ | .jpV0 _ _ | .rnd _ _ | .drw _ _ _ | .ldVxDt _ | .ldVxK _ | .ldDtVx _ | .ldStVx _
  | .addI _ | .ldF _ | .ldB _ | .ldMemVx _ | .ldVxMem _ => exec i s

end Sys2Proof.Machine
end

