-- ==== Sys2Proof/Machine/Step.lean ====
section
/-! DEFINITION. One `Step` (40_step_cycle.md R87), and where a word must lie for the next step to run it. -/

namespace Sys2Proof.Machine

/-- The whole step, in the order of R87 and R207. -/
def step (s : State) : Host.Outcome State Fault Refusal := s.cycle State.fetchDecode exec

/-- The whole step of the machine with other values of the parameters of R7 (log 35). With the spec's values it is `step`
(`stepWith_params`). -/
def stepWith (p : Config.Params) (s : State) : Host.Outcome State Fault Refusal :=
  s.cycle (State.fetchDecodeWith p.hasLdVxVy) (execWith p.keyIndexPolicy)

/-- `s` with the table's word where the very next step fetches: at PC, high byte first (R43, R84). The latch is `Running` and no fault
is latched, or the step would not fetch (R83, R88), and a PC that cannot be fetched from becomes the entry point (log 13). -/
def State.withFetchWord (s : State) (nbits w : Nat) : State :=
  let pc : Word := if s.canFetch then s.pc else BitVec.ofNat 16 Config.programStart
  { s with
    pc := pc
    latch := .running
    fault := none
    mem := s.mem.writeBytes pc.toNat [highByte (tableWord nbits w), lowByte (tableWord nbits w)] }

end Sys2Proof.Machine
end

