-- ==== Sys2Proof/Machine/HostOps.lean ====
section
/-! DEFINITION. The host's side of the boundary (47_host_interface.md): construction, key input, display read, outputs, and the
serialisation of operations. -/

namespace Sys2Proof.Machine

/-! ### Construction -/

/-- The default FONT as the argument of construction (R31). -/
def defaultFont : Vector Byte 80 := ⟨font.toArray, rfl⟩

/-- `Construct(W, H, ROM)` with FONT as an argument: refused when the ROM is longer than 3584 bytes or a dimension is 0 (R181, D4, R6),
else the state of R30 with font and ROM copied into memory (R27). -/
def constructWith (glyphs : Vector Byte 80) (width height : Nat) (rom : List Byte) : Result :=
  if rom.length > Config.maxRom then .refused .romTooLong
  else if width < 1 ∨ height < 1 then .refused .displayTooSmall
  else .next (State.initial width height
    ((Memory.writeBytes [] 0 glyphs.toList).writeBytes Config.programStart rom))

/-- `Construct(W, H, ROM)` with the default FONT (R181). -/
def construct (width height : Nat) (rom : List Byte) : Result := constructWith defaultFont width height rom

/-! ### Key input -/

/-- What a press notification does to the latch: only `AwaitingKey(r)` moves (R160, R161, D22). -/
def Latch.onPress (k : Nibble) : Latch → Latch
  | .awaitingKey r => .pending r k
  | .running => .running
  | .pending r k₀ => .pending r k₀

/-- `KeyPress(k)` (R161); a faulted instance ignores it (R208). -/
def State.keyPress (s : State) (k : Nibble) : State :=
  if s.fault.isSome then s else (s.setKey k true).setLatch (s.latch.onPress k)

/-- `KeyRelease(k)`: never changes the latch (R163); a faulted instance ignores it (R208). -/
def State.keyRelease (s : State) (k : Nibble) : State :=
  if s.fault.isSome then s else s.setKey k false

/-! ### Random bytes -/

/-- Random bytes supplied for the next executions of Cxkk: the byte that R180 lets a step consume, given ahead as the list of draws R127
names. Any bytes may be supplied, at any time; without them the draws are free values (log 10). -/
def State.supplyRandom (s : State) (bs : List Byte) : State := { s with randomInput := s.randomInput ++ bs }

/-! ### Outputs -/

/-- The exported buffer: `W * H` Booleans, cell (c, r) at index `r * W + c` (R184). -/
def State.displayBuffer (s : State) : List Bool := (List.range (s.disp.width * s.disp.height)).map fun k => s.disp.lit.contains k

/-! ### Operations on an instance -/

/-- The operations the host can invoke on an existing instance (R180). -/
inductive HostOp where
  | step
  | keyPress (k : Nibble)
  | keyRelease (k : Nibble)
  /-- A read of the display or of a level output; no effect on the core (R184, R185). -/
  | read
  deriving DecidableEq, Repr

/-- The effect of one operation of an instance whose step is `core`. -/
def HostOp.applyBy (core : State → Result) : HostOp → State → Result
  | .step, s => core s
  | .keyPress k, s => .next (s.keyPress k)
  | .keyRelease k, s => .next (s.keyRelease k)
  | .read, s => .next s

/-- The effect of one operation. -/
def HostOp.apply (op : HostOp) (s : State) : Result := op.applyBy Sys2Proof.Machine.step s

/-- Operations invoked at the same time: one has its effect, two or more have no meaning (R187, D32). -/
def invoke : List HostOp → State → Result
  | [], s => .next s
  | [op], s => op.apply s
  | _ :: _ :: _, _ => .refused .concurrentOperations

/-- A run of an instance whose step is `core`: serialised operations, one after the other (R187, R189). -/
def runOpsBy (core : State → Result) : List HostOp → State → Result
  | [], s => .next s
  | op :: ops, s =>
    match op.applyBy core s with
    | .next t => runOpsBy core ops t
    | .fault f => .fault f
    | .refused r => .refused r

/-- A run of the machine. -/
def runOps (ops : List HostOp) (s : State) : Result := runOpsBy Sys2Proof.Machine.step ops s

/-- A run of the machine with other values of the parameters of R7 (log 35). -/
def runOpsWith (p : Config.Params) (ops : List HostOp) (s : State) : Result := runOpsBy (stepWith p) ops s

end Sys2Proof.Machine
end

