-- ==== Sys2Proof/Safety.lean ====
section
/-! DEFINITION. The terms claims are stated in: what a run that went wrong is, the steady states of R189, the invariant of R29 and R106,
and the predicates for what an instruction leaves unchanged. -/

namespace Sys2Proof.Machine

/-! ### Going wrong, and steady states -/

/-- The machine can decode an opcode in its next step: no fault, not waiting, nothing latched (R87). -/
def State.decodesNext (s : State) : Prop := s.fault = none ∧ s.latch = .running

/-- A faulted instance: terminal, never a successful end of a run (R208). -/
def State.faulted (s : State) : Prop := s.fault ≠ none

/-- A permanent invalid-opcode stall: the next fetch is possible and its word matches no pattern (R189, R201). R201 does not say whether a state
that waits for a key, or has one latched, counts already while the word at its PC is invalid: here it counts only once the latch is Running, when
the next step fetches. DESIGN CHOICE, log 34. -/
def State.stalled (s : State) : Prop := s.decodesNext ∧ s.canFetch = true ∧ decodeWord s.fetchWord = none

/-- A state that has gone wrong for safety claims: faulted, or about to take the invalid-opcode path in its next step (R201, R208; log 34). -/
def State.goneWrong (s : State) : Prop := s.faulted ∨ s.stalled

/-- Blocked in Fx0A (R166, R189, R214). -/
def State.waiting (s : State) : Prop := s.fault = none ∧ ∃ r, s.latch = .awaitingKey r

/-- A jump to itself, the customary end of a program (R101, R189). -/
def State.atSelfJump (s : State) : Prop :=
  s.decodesNext ∧ s.canFetch = true ∧ ∃ nnn, decodeWord s.fetchWord = some (.jp nnn) ∧ zextAddr nnn = s.pc

/-- The steady states of R189 under steps alone: the latched fault, the invalid-opcode stall, the endless wait, the self-jump. -/
def State.steady (s : State) : Prop := s.faulted ∨ s.stalled ∨ s.waiting ∨ s.atSelfJump

/-! ### Invariants -/

/-- What a latched cause says of the state it was raised in (R203 to R206). -/
def StickyCause.fits (s : State) : StickyCause → Prop
  | .fetchAddressOutOfRange p => p = s.pc ∧ 0xFFF ≤ p.toNat
  | .dataAddressOutOfRange a => 0xFFF < a ∧ s.i.toNat ≤ a ∧ a ≤ s.i.toNat + 15
  | .stackOverflow p => p = s.pc ∧ s.sp = 15#4
  | .stackUnderflow p => p = s.pc ∧ s.sp = 0#4

/-- Every live stack cell `stack[1..SP]` holds an address at which a CALL can have been fetched (R29). -/
def State.liveStackOk (s : State) : Prop := ∀ j : Nibble, 1 ≤ j.toNat → j.toNat ≤ s.sp.toNat → (s.stackAt j).toNat ≤ 0xFFE

/-- What holds in every reachable state: memory and display in canonical form, live return addresses at most 0xFFE (R29), PC at most 0x10FE
(R106), and a latched fault that fits the state (R202). -/
structure State.Inv (s : State) : Prop where
  memory : s.mem.wf
  display : s.disp.wf
  liveStack : s.liveStackOk
  pcBound : s.pc.toNat ≤ 0x10FE
  faultFits : ∀ c, s.fault = some c → c.fits s

/-! ### Tables of the spec, written out apart from the meanings -/

/-- PC at the end of an instruction that raises nothing, by class (R13). -/
def pcTable (s : State) : Instr → Word
  | .jp nnn | .call nnn => BitVec.ofNat 16 nnn.toNat
  | .jpV0 x nnn => BitVec.ofNat 16 (nnn.toNat + (s.reg x).toNat)
  | .ret => s.stackAt s.sp + 2#16
  | .seImm x kk => if s.reg x = kk then s.pc + 4#16 else s.pc + 2#16
  | .sneImm x kk => if s.reg x = kk then s.pc + 2#16 else s.pc + 4#16
  | .seReg x y => if s.reg x = s.reg y then s.pc + 4#16 else s.pc + 2#16
  | .sneReg x y => if s.reg x = s.reg y then s.pc + 2#16 else s.pc + 4#16
  | .skp x => if s.key (BitVec.ofNat 4 (s.reg x).toNat) then s.pc + 4#16 else s.pc + 2#16
  | .sknp x => if s.key (BitVec.ofNat 4 (s.reg x).toNat) then s.pc + 2#16 else s.pc + 4#16
  | .cls | .ldImm _ _ | .addImm _ _ | .ldReg _ _ | .orReg _ _ | .andReg _ _ | .xorReg _ _ | .addReg _ _ | .subReg _ _
  | .shr _ _ | .subnReg _ _ | .shl _ _ | .ldI _ | .rnd _ _ | .drw _ _ _ | .ldVxDt _ | .ldVxK _ | .ldDtVx _ | .ldStVx _
  | .addI _ | .ldF _ | .ldB _ | .ldMemVx _ | .ldVxMem _ => s.pc + 2#16

/-- The registers an instruction may write (the access table of R10 and R11). The commit of Fx0A is no instruction. -/
def mayWriteReg (r : Nibble) : Instr → Prop
  | .ldImm x _ | .addImm x _ | .ldReg x _ | .rnd x _ | .ldVxDt x => r = x
  | .orReg x _ | .andReg x _ | .xorReg x _ | .addReg x _ | .subReg x _ | .shr x _ | .subnReg x _ | .shl x _ => r = x ∨ r = vfIndex
  | .drw _ _ _ => r = vfIndex
  | .ldVxMem x => r.toNat ≤ x.toNat
  | .cls | .ret | .jp _ | .call _ | .seImm _ _ | .sneImm _ _ | .seReg _ _ | .sneReg _ _ | .ldI _ | .jpV0 _ _ | .skp _ | .sknp _
  | .ldVxK _ | .ldDtVx _ | .ldStVx _ | .addI _ | .ldF _ | .ldB _ | .ldMemVx _ => False

/-- How many 1-bits of the sprite at I, drawn with height `n` from origin (`x0`, `y0`), land on cell (column `c`, row `r`) (R172, R175). -/
def spriteHits (s : State) (x0 y0 n r c : Nat) : Nat :=
  ((List.range n).map fun row =>
    (List.range 8).countP fun col =>
      (s.mem.read (s.i.toNat + row)).getLsbD (7 - col) && decide ((x0 + col) % s.disp.width = c) &&
        decide ((y0 + row) % s.disp.height = r)).sum

/-- Whether the sprite at I with height `n` has any 1-bit (R178). -/
def spriteHasBit (s : State) (n : Nat) : Prop := ∃ row, row < n ∧ s.mem.read (s.i.toNat + row) ≠ 0#8

/-! ### Results and frames -/

/-- The instruction completes: `exec` answers a next state, of which `P` holds. -/
def Completes (i : Instr) (s : State) (P : State → Prop) : Prop := ∃ t, exec i s = .next t ∧ P t

/-- Every byte of memory reads as before. -/
def sameMemory (s t : State) : Prop := ∀ a, t.mem.read a = s.mem.read a

/-- Every cell of memory outside `base .. base + n - 1` reads as before. -/
def sameMemoryOutside (base n : Nat) (s t : State) : Prop := ∀ a, a < base ∨ base + n ≤ a → t.mem.read a = s.mem.read a

/-- Every register but those in `written` holds what it held. -/
def sameRegsExcept (written : List Nibble) (s t : State) : Prop := ∀ r, r ∉ written → t.reg r = s.reg r

/-- Only general registers and PC may differ; memory is said byte by byte too. -/
def onlyRegsAndPc (s t : State) : Prop := t = { s with v := t.v, pc := t.pc } ∧ sameMemory s t

/-- Only PC may differ. -/
def onlyPc (s t : State) : Prop := t = { s with pc := t.pc } ∧ sameMemory s t

end Sys2Proof.Machine
end

