-- ==== Sys2Proof/Certificates/Slice0/Obligations.lean ====
section
/-! DEFINITION. The statements for the provers. Each docstring names the rule of spec/ it formalises. A clause that rests on a choice the
spec marks as its own (a decision D<n>, general knowledge, or a derivation) says so, and the statement then has basis derived. -/

open Sys2Proof Sys2Proof.Machine

/-! ### Encoding -/

/-- Words written out bit by bit from 30_encoding.md R66 decode to the instruction they stand for, and words with no pattern to nothing; the three
arithmetic patterns of family 8 decode to ADD, SUB and SUBN at every pair of registers (the pairing is general knowledge, log 4). -/
def Obligations.WrittenWordsDecode : Prop :=
  decodeWord 0b0110101000101100#16 = some (.ldImm 0xA#4 0x2C#8) ∧
  decodeWord 0b1000000100100100#16 = some (.addReg 1#4 2#4) ∧
  decodeWord 0b0000000011101110#16 = some .ret ∧
  decodeWord 0b1011001011110000#16 = some (.jpV0 2#4 0x2F0#12) ∧
  decodeWord 0b0011000100101010#16 = some (.seImm 1#4 0x2A#8) ∧
  decodeWord 0b1101000000010101#16 = some (.drw 0#4 1#4 5#4) ∧
  decodeWord 0b1110010110011110#16 = some (.skp 5#4) ∧
  decodeWord 0b1111000101100101#16 = some (.ldVxMem 1#4) ∧
  decodeWord 0b0000000000000000#16 = none ∧
  decodeWord 0b0101000100100001#16 = none ∧
  (∀ x y : Nibble, decodeWord (0x8#4 ++ x ++ y ++ 0x4#4) = some (.addReg x y) ∧
    decodeWord (0x8#4 ++ x ++ y ++ 0x5#4) = some (.subReg x y) ∧ decodeWord (0x8#4 ++ x ++ y ++ 0x7#4) = some (.subnReg x y))

/-- Decoding the encoding of a well-formed instruction gives it back, at every operand and under both values of `HAS_LD_VX_VY`, as a
word and as two bytes at the front of any byte sequence (30_encoding.md R60 to R66). -/
def Obligations.DecodeEncodeRoundTrip : Prop :=
  (∀ (hasLd : Bool) (i : Instr), i.wfWith hasLd = true → decodeWordWith hasLd (encode i) = some i) ∧
  (∀ (i : Instr) (rest : List Byte), i.wf = true → decode (encodeBytes i ++ rest) = some (i, rest))

/-- Each word has one meaning: what decodes is well formed and encodes to the very word, so no bit of a word is dropped. -/
def Obligations.EncodeDecodeRoundTrip : Prop :=
  ∀ (hasLd : Bool) (w : Word) (i : Instr), decodeWordWith hasLd w = some i → i.wfWith hasLd = true ∧ encode i = w

/-- The nibble dispatch accepts exactly the words that select a row of the mask and match table, and no word selects two rows (R65, R66). -/
def Obligations.DecodeMatchesOpcodeMap : Prop :=
  (∀ w : Word, (decodeWord w).isSome = true ↔ ∃ p ∈ opcodePatterns, p.selects w = true) ∧
  (∀ w : Word, ∀ p ∈ opcodePatterns, ∀ q ∈ opcodePatterns, p.selects w = true → q.selects w = true → p = q)

/-- The invalid words are exactly the six groups of 30_encoding.md section 4; strict matching of fixed nibbles is D19 (log 22), and 8xy0 being
an instruction is D16 (log 3). -/
def Obligations.InvalidWordsExactly : Prop :=
  ∀ w : Word, decodeWord w = none ↔
    (w.toNat < 0x1000 ∧ w ≠ 0x00E0#16 ∧ w ≠ 0x00EE#16) ∨
    (w.toNat / 0x1000 = 0x5 ∧ w.toNat % 16 ≠ 0) ∨
    (w.toNat / 0x1000 = 0x8 ∧ w.toNat % 16 ∈ [0x8, 0x9, 0xA, 0xB, 0xC, 0xD, 0xF]) ∨
    (w.toNat / 0x1000 = 0x9 ∧ w.toNat % 16 ≠ 0) ∨
    (w.toNat / 0x1000 = 0xE ∧ w.toNat % 256 ∉ [0x9E, 0xA1]) ∨
    (w.toNat / 0x1000 = 0xF ∧ w.toNat % 256 ∉ [0x07, 0x0A, 0x15, 0x18, 0x1E, 0x29, 0x33, 0x55, 0x65])

/-! ### Construction -/

/-- The state after construction with the default parameters. Only PC = 0x200 and SP = 0 are CH8's; the other values are the spec's choice
D2 (log 1), and the empty lists and the count are the model's own (log 10, log 11). -/
def Obligations.ResetStateValues : Prop :=
  State.reset.pc = 0x200#16 ∧ State.reset.sp = 0#4 ∧ State.reset.i = 0#16 ∧ State.reset.dt = 0#8 ∧ State.reset.st = 0#8 ∧
  (∀ r, State.reset.reg r = 0#8) ∧ (∀ j, State.reset.stackAt j = 0#16) ∧ (∀ k, State.reset.key k = false) ∧
  (∀ r c, State.reset.disp.cell r c = false) ∧ State.reset.disp.width = 64 ∧ State.reset.disp.height = 32 ∧
  State.reset.latch = .running ∧ State.reset.render = false ∧ State.reset.fault = none ∧
  (∀ a, 80 ≤ a → State.reset.mem.read a = 0#8) ∧ (∀ a, a < 80 → State.reset.mem.read a = font.getD a 0#8)

/-- Construction copies glyph `d` to `5*d .. 5*d+4` and the ROM from 0x200 on, for any FONT and any ROM that fits (10_state.md R27). -/
def Obligations.FontAndRomPlaced : Prop :=
  ∀ (glyphs : Vector Byte 80) (width height : Nat) (rom : List Byte), rom.length ≤ 3584 → 1 ≤ width → 1 ≤ height →
    ∃ t, constructWith glyphs width height rom = .next t ∧
      (∀ (d k : Nat) (h : 5 * d + k < 80), k < 5 → t.mem.read (5 * d + k) = glyphs[5 * d + k]'h) ∧
      (∀ (j : Nat) (h : j < rom.length), t.mem.read (0x200 + j) = rom[j]'h)

/-- Construction answers an instance with the invariant, zero memory outside font and ROM (D2, log 1), the given dimensions and PC at the entry
point; it is refused for a ROM above 3584 bytes (D4, log 23) or an empty display, and never faults. -/
def Obligations.ConstructExactly : Prop :=
  ∀ (glyphs : Vector Byte 80) (width height : Nat) (rom : List Byte),
    (rom.length ≤ 3584 → 1 ≤ width → 1 ≤ height →
      ∃ t, constructWith glyphs width height rom = .next t ∧ t.Inv ∧ t = State.initial width height t.mem ∧
        (∀ a, 80 ≤ a → a < 0x200 ∨ 0x200 + rom.length ≤ a → t.mem.read a = 0#8) ∧ t.pc = 0x200#16 ∧ t.decodesNext) ∧
    (3584 < rom.length → constructWith glyphs width height rom = .refused .romTooLong) ∧
    (rom.length ≤ 3584 → width = 0 ∨ height = 0 → constructWith glyphs width height rom = .refused .displayTooSmall)

/-- The invariant holds at reset. -/
def Obligations.ResetMeetsInvariant : Prop := State.reset.Inv

/-! ### The step cycle -/

/-- When the bytes at PC decode to `i`, the step is `exec i` on the state after the render clear and the timer decrement, and nothing else is
added around it; when they match no pattern, PC does not advance (40_step_cycle.md R81, R82, R84, R85). That the byte at PC is the high byte of
the word is read from the spec by inference: 20_memory.md R43, D6, log 25. -/
def Obligations.StepRunsDecodedInstruction : Prop :=
  ∀ s : State, s.fault = none → s.latch = .running → s.pc.toNat < 0xFFF →
    (∀ i, decodeWord (s.mem.read s.pc.toNat ++ s.mem.read (s.pc.toNat + 1)) = some i →
      step s = exec i { s with render := false, dt := BitVec.ofNat 8 (s.dt.toNat - 1), st := BitVec.ofNat 8 (s.st.toNat - 1) }) ∧
    (∀ i rest, decode [s.mem.read s.pc.toNat, s.mem.read (s.pc.toNat + 1)] = some (i, rest) →
      decodeWord (s.mem.read s.pc.toNat ++ s.mem.read (s.pc.toNat + 1)) = some i ∧ rest = []) ∧
    (decodeWord (s.mem.read s.pc.toNat ++ s.mem.read (s.pc.toNat + 1)) = none → ∃ t, step s = .next t ∧ t.pc = s.pc)

/-- A step requested while waiting for a key or faulted changes nothing at all. The core's own gate is the spec's choice D14 and D15
(log 7, log 9). -/
def Obligations.IgnoredStepChangesNothing : Prop :=
  ∀ s : State, (∃ r, s.latch = .awaitingKey r) ∨ s.fault ≠ none → step s = .next s

/-- The deferred commit: `V[r] <- k`, the latch cleared, render and timers as steps 1 and 2 leave them, everything else unchanged, and no fetch, so
no fetch fault even when PC is out of range (40_step_cycle.md R83). -/
def Obligations.CommitStepWritesKey : Prop :=
  ∀ (s : State) (r k : Nibble), s.fault = none → s.latch = .pending r k →
    ∃ t, step s = .next t ∧ (t.reg r).toNat = k.toNat ∧ sameRegsExcept [r] s t ∧ sameMemory s t ∧
      t = { s with
        v := t.v, latch := .running, render := false, dt := BitVec.ofNat 8 (s.dt.toNat - 1), st := BitVec.ofNat 8 (s.st.toNat - 1) }

/-- A fetch with PC at or above 0xFFF latches `FetchAddressOutOfRange(PC)` and changes nothing else but render and timers. The fault is the
spec's choice D8 (log 8). -/
def Obligations.FetchOutOfRangeFaults : Prop :=
  ∀ s : State, s.decodesNext → 0xFFF ≤ s.pc.toNat →
    step s = .next { s with
      fault := some (.fetchAddressOutOfRange s.pc), render := false, dt := BitVec.ofNat 8 (s.dt.toNat - 1),
      st := BitVec.ofNat 8 (s.st.toNat - 1) }

/-- The invalid-opcode stall is permanent under every sequence of host operations: each step reports the same word once and changes only
render and the timers, which run down to 0; key events still update the keys; no fault is latched (60_exceptions.md R201). -/
def Obligations.InvalidOpcodeStallsForever : Prop :=
  ∀ (ops : List HostOp) (s : State), s.stalled →
    (∃ t, runOps ops s = .next t ∧ t.stalled ∧ t.fetchWord = s.fetchWord ∧ t.fault = none ∧
      t.reports = List.replicate (ops.count .step) s.fetchWord ++ s.reports ∧
      t.dt.toNat = s.dt.toNat - ops.count .step ∧ t.st.toNat = s.st.toNat - ops.count .step ∧
      t.render = (if ops.count .step = 0 then s.render else false) ∧ sameMemory s t ∧
      t = { s with dt := t.dt, st := t.st, render := t.render, reports := t.reports, keys := t.keys }) ∧
    (∀ k, (s.keyPress k).key k = true ∧ (s.keyRelease k).key k = false)

/-- Every step that is not ignored decrements DT and ST, each clamped at 0, whatever else it does; only Fx15 and Fx18 then write a timer, after the
decrement (40_step_cycle.md R82). -/
def Obligations.TimersDecrementOncePerStep : Prop :=
  ∀ s t : State, s.fault = none → s.awaitingKey = false → step s = .next t →
    (t.dt.toNat = s.dt.toNat - 1 ∨ ∃ x, s.latch = .running ∧ s.fetchDecode = .instr (.ldDtVx x) ∧ t.dt = s.reg x) ∧
    (t.st.toNat = s.st.toNat - 1 ∨ ∃ x, s.latch = .running ∧ s.fetchDecode = .instr (.ldStVx x) ∧ t.st = s.reg x) ∧
    (∀ x, s.latch = .running → s.fetchDecode = .instr (.ldDtVx x) → t.dt = s.reg x) ∧
    (∀ x, s.latch = .running → s.fetchDecode = .instr (.ldStVx x) → t.st = s.reg x)

/-- After a step that is not ignored, render is true exactly when that step executed CLS or DRW (40_step_cycle.md R81). A DRW that raised a
fault has not executed. -/
def Obligations.RenderOnlyAfterClsOrDrw : Prop :=
  ∀ s t : State, s.fault = none → s.awaitingKey = false → step s = .next t →
    (t.render = true ↔
      s.latch = .running ∧
        (s.fetchDecode = .instr .cls ∨ ((∃ x y n, s.fetchDecode = .instr (.drw x y n)) ∧ t.fault = none)))

/-- PC at the end of a step, class by class: the table of 10_state.md R13. The PC of a step that latches a fault stands in
`FaultIsPrecise`. -/
def Obligations.PcFollowsClassTable : Prop :=
  ∀ s t : State, s.fault = none → step s = .next t → t.fault = none →
    (∀ r k, s.latch = .pending r k → t.pc = s.pc) ∧
    (s.latch = .running → decodeWord s.fetchWord = none → t.pc = s.pc) ∧
    (∀ i, s.latch = .running → decodeWord s.fetchWord = some i → t.pc = pcTable s i)

/-- Every operation on an instance answers a next state: nothing in the model refuses or stops an instruction. The spec has no stop of
its own: its faults are latched states (log 9). -/
def Obligations.EveryRunGoesOn : Prop :=
  (∀ s : State, ∃ t, step s = .next t) ∧ (∀ (i : Instr) (s : State), ∃ t, exec i s = .next t) ∧
  (∀ (ops : List HostOp) (s : State), ∃ t, runOps ops s = .next t)

/-- The key-wait round trip: the step that executes Fx0A, a press of `k`, and two steps. The first commits `V[r] = k` without decoding and costs one
tick; the second decodes at the PC after Fx0A (40_step_cycle.md R92). -/
def Obligations.KeyWaitRoundTrip : Prop :=
  ∀ (s : State) (r k : Nibble), s.decodesNext → s.canFetch = true → decodeWord s.fetchWord = some (.ldVxK r) →
    ∃ a c, step s = .next a ∧ a.latch = .awaitingKey r ∧ a.pc = s.pc + 2#16 ∧ a.v = s.v ∧
      (a.keyPress k).latch = .pending r k ∧ step (a.keyPress k) = .next c ∧
      (c.reg r).toNat = k.toNat ∧ sameRegsExcept [r] s c ∧ c.pc = a.pc ∧ c.latch = .running ∧
      c.dt.toNat = a.dt.toNat - 1 ∧ c.st.toNat = a.st.toNat - 1 ∧ sameMemory s c ∧
      (∀ i, c.canFetch = true → decodeWord c.fetchWord = some i → step c = exec i c.beginStep)

/-! ### Keys and the latch -/

/-- `KeyPress(k)` sets the flag and moves only `AwaitingKey(r)` to `Pending(r, k)`; nothing else changes. That a repeated press counts and a second
one does not replace the latched key is the spec's choice D22 (log 21). -/
def Obligations.KeyPressEffect : Prop :=
  ∀ (s : State) (k : Nibble), s.fault = none →
    (s.keyPress k).key k = true ∧ (∀ j, j ≠ k → (s.keyPress k).key j = s.key j) ∧
    (∀ r, s.latch = .awaitingKey r → (s.keyPress k).latch = .pending r k) ∧
    (s.awaitingKey = false → (s.keyPress k).latch = s.latch) ∧
    s.keyPress k = { s with keys := (s.keyPress k).keys, latch := (s.keyPress k).latch }

/-- `KeyRelease(k)` clears the flag of `k` alone and never changes the latch (45_keywait_protocol.md R163). A faulted instance ignores it: that
clause is `FaultedIsTerminal`. -/
def Obligations.KeyReleaseEffect : Prop :=
  ∀ (s : State) (k : Nibble), (s.keyRelease k).latch = s.latch ∧
    (s.fault = none → (s.keyRelease k).key k = false ∧ (∀ j, j ≠ k → (s.keyRelease k).key j = s.key j) ∧
      s.keyRelease k = { s with keys := (s.keyRelease k).keys })

/-- Faulted is terminal: no sequence of host operations changes anything. The sticky fault is the spec's choice D15 (log 8, log 9). -/
def Obligations.FaultedIsTerminal : Prop :=
  ∀ (ops : List HostOp) (s : State), s.faulted → runOps ops s = .next s

/-- Without a press the wait never ends, and everything but the key flags that the host releases is frozen (45_keywait_protocol.md R166). -/
def Obligations.WaitHasNoTimeout : Prop :=
  ∀ (ops : List HostOp) (s : State) (r : Nibble), s.latch = .awaitingKey r → (∀ k, .keyPress k ∉ ops) →
    ∃ t, runOps ops s = .next t ∧ t.latch = .awaitingKey r ∧ t = { s with keys := t.keys } ∧ ((∀ k, .keyRelease k ∉ ops) → t = s)

/-- The Step rows of the latch's transition table, complete in both directions (45_keywait_protocol.md section with R160; the ignored row is D14,
log 7). -/
def Obligations.LatchMovesOnlyAsTable : Prop :=
  ∀ s t : State, s.fault = none → step s = .next t →
    (∀ r, s.latch = .awaitingKey r → t.latch = .awaitingKey r) ∧
    (∀ r k, s.latch = .pending r k → t.latch = .running) ∧
    (s.latch = .running → ∀ r, s.fetchDecode = .instr (.ldVxK r) → t.latch = .awaitingKey r) ∧
    (s.latch = .running → (∀ r, s.fetchDecode ≠ .instr (.ldVxK r)) → t.latch = .running)

/-! ### Faults -/

/-- A sticky fault is precise: the step that latches one leaves the state as it was but for render, the timers and the fault latch, PC at the
faulting instruction included. The mechanism is the spec's choice D8, D9, D15 (log 8). -/
def Obligations.FaultIsPrecise : Prop :=
  ∀ (s t : State) (c : StickyCause), s.fault = none → step s = .next t → t.fault = some c →
    t = { s with
      fault := some c, render := false, dt := BitVec.ofNat 8 (s.dt.toNat - 1), st := BitVec.ofNat 8 (s.st.toNat - 1) }

/-- When each sticky cause is raised, with the value it records, and that nothing else raises one (60_exceptions.md section 2; the spec's choices
D8 and D9, log 8). -/
def Obligations.FaultsExactlyWhen : Prop :=
  ∀ (s t : State) (c : StickyCause), s.decodesNext → step s = .next t →
    (t.fault = some c ↔
      (0xFFF ≤ s.pc.toNat ∧ c = .fetchAddressOutOfRange s.pc) ∨
      (s.pc.toNat < 0xFFF ∧
        ((∃ nnn, decodeWord s.fetchWord = some (.call nnn) ∧ s.sp = 15#4 ∧ c = .stackOverflow s.pc) ∨
         (decodeWord s.fetchWord = some .ret ∧ s.sp = 0#4 ∧ c = .stackUnderflow s.pc) ∨
         (∃ x, decodeWord s.fetchWord = some (.ldB x) ∧ 0xFFF < s.i.toNat + 2 ∧ c = .dataAddressOutOfRange (s.i.toNat + 2)) ∨
         (∃ x, (decodeWord s.fetchWord = some (.ldMemVx x) ∨ decodeWord s.fetchWord = some (.ldVxMem x)) ∧
            0xFFF < s.i.toNat + x.toNat ∧ c = .dataAddressOutOfRange (s.i.toNat + x.toNat)) ∨
         (∃ x y n, decodeWord s.fetchWord = some (.drw x y n) ∧ 0 < n.toNat ∧ 0xFFF < s.i.toNat + n.toNat - 1 ∧
            c = .dataAddressOutOfRange (s.i.toNat + n.toNat - 1)))))

/-! ### Promises about the whole machine -/

/-- Which instructions can change which state (10_state.md R14 to R24): I, SP, the stack, the timers, memory, the display, the latch, render,
the fault latch; none changes a key, the dimensions or the reports. -/
def Obligations.OnlyTheseInstructionsWrite : Prop :=
  ∀ (i : Instr) (s t : State), exec i s = .next t →
    (t.i ≠ s.i → (∃ nnn, i = .ldI nnn) ∨ ∃ x, i = .addI x ∨ i = .ldF x ∨ i = .ldMemVx x ∨ i = .ldVxMem x) ∧
    (t.sp ≠ s.sp → i = .ret ∨ ∃ nnn, i = .call nnn) ∧
    (t.stack ≠ s.stack → ∃ nnn, i = .call nnn) ∧ t.stackAt 0#4 = s.stackAt 0#4 ∧
    (t.dt ≠ s.dt → ∃ x, i = .ldDtVx x) ∧ (t.st ≠ s.st → ∃ x, i = .ldStVx x) ∧
    (t.mem ≠ s.mem → ∃ x, i = .ldB x ∨ i = .ldMemVx x) ∧
    (t.disp ≠ s.disp → i = .cls ∨ ∃ x y n, i = .drw x y n) ∧
    (t.render ≠ s.render → i = .cls ∨ ∃ x y n, i = .drw x y n) ∧
    (t.latch ≠ s.latch → ∃ x, i = .ldVxK x) ∧
    (t.fault ≠ s.fault → i = .ret ∨ (∃ nnn, i = .call nnn) ∨ (∃ x y n, i = .drw x y n) ∨
      ∃ x, i = .ldB x ∨ i = .ldMemVx x ∨ i = .ldVxMem x) ∧
    t.keys = s.keys ∧ t.disp.width = s.disp.width ∧ t.disp.height = s.disp.height ∧ t.reports = s.reports ∧
    ((∀ x kk, i ≠ .rnd x kk) → t.randomInput = s.randomInput ∧ t.drawCount = s.drawCount)

/-- Which register an instruction can change, the table of 10_state.md R10 and R11: its destination, VF for the nine flag writers, V0 to Vx for
Fx65, and no other. -/
def Obligations.OnlyTheseRegistersChange : Prop :=
  ∀ (i : Instr) (s t : State) (r : Nibble), exec i s = .next t → t.reg r ≠ s.reg r → mayWriteReg r i

/-- The program cannot observe ST, the render flag, `stack[0]` or the report log: a step from two states that differ only there gives two states that
differ only there (10_state.md R15, R17, R19, R25). -/
def Obligations.HiddenStateNeverObserved : Prop :=
  ∀ (s t : State) (b : Byte) (w : Word) (f : Bool) (ws : List Word), step s = .next t →
    ∃ t', step { s with st := b, stack := s.stack.set 0 w, render := f, reports := ws } = .next t' ∧
      t' = { t with st := t'.st, stack := t.stack.set 0 w, render := t'.render, reports := t'.reports }

/-- Every step keeps the invariant. -/
def Obligations.StepKeepsInvariant : Prop := ∀ s t : State, s.Inv → step s = .next t → t.Inv

/-- Every state that any host can bring any instance to has the invariant, key presses included (10_state.md section 9, R29). -/
def Obligations.ReachableStatesMeetInvariant : Prop :=
  ∀ (glyphs : Vector Byte 80) (width height : Nat) (rom : List Byte) (s : State), constructWith glyphs width height rom = .next s →
    ∀ ops : List HostOp, ∃ t, runOps ops s = .next t ∧ t.Inv ∧ t.disp.width = width ∧ t.disp.height = height

/-- A store is seen by the next fetch: after Fx55, a fetch from any two stored bytes gives the word they form, and a fetch from two other bytes gives
what it gave before (20_memory.md R51). -/
def Obligations.StoreSeenByNextFetch : Prop :=
  ∀ (x : Nibble) (s : State), s.dataAddr x.toNat ≤ 0xFFF →
    Completes (.ldMemVx x) s fun t =>
      (∀ j, j + 1 ≤ x.toNat →
        (t.setPc (BitVec.ofNat 16 (s.dataAddr j))).fetchWord = s.reg (BitVec.ofNat 4 j) ++ s.reg (BitVec.ofNat 4 (j + 1))) ∧
      (∀ p : Word, p.toNat + 1 < s.dataAddr 0 ∨ s.dataAddr x.toNat < p.toNat → (t.setPc p).fetchWord = (s.setPc p).fetchWord)

/-- The steady states stay steady, and V, I, PC, SP, the stack, memory, display and latch no longer change (47_host_interface.md R189; the list of
steady states is the spec's choice D29, log 29). -/
def Obligations.SteadyStatesStay : Prop :=
  ∀ s t : State, s.steady → step s = .next t →
    t.steady ∧ t.v = s.v ∧ t.i = s.i ∧ t.pc = s.pc ∧ t.sp = s.sp ∧ t.stack = s.stack ∧ t.mem = s.mem ∧ t.disp = s.disp ∧
    t.latch = s.latch ∧ t.fault = s.fault

/-! ### Control flow -/

/-- 00E0: every cell unlit, render set even on a blank display, VF not written (41_control_flow.md, CLS; the pattern is general knowledge, log 4). -/
def Obligations.ClsResult : Prop :=
  ∀ s : State, decodeWord 0x00E0#16 = some .cls ∧
    Completes .cls s fun t =>
      (∀ r c, t.disp.cell r c = false) ∧ t.disp.width = s.disp.width ∧ t.disp.height = s.disp.height ∧ t.render = true ∧
      t.pc = s.pc + 2#16 ∧ t = { s with disp := t.disp, render := t.render, pc := t.pc } ∧ sameMemory s t

/-- 1nnn: PC becomes `nnn`; the one target that cannot be fetched is 0xFFF, and the jump to it succeeds (41_control_flow.md, JP; the pattern is general
knowledge, log 4; the fetch fault is D8, log 8). -/
def Obligations.JpResult : Prop :=
  ∀ (nnn : Addr) (s : State), decodeWord (0x1#4 ++ nnn) = some (.jp nnn) ∧
    Completes (.jp nnn) s fun t => t.pc.toNat = nnn.toNat ∧ onlyPc s t ∧ (t.canFetch = false ↔ nnn = 0xFFF#12)

/-- 00EE: PC is the popped address plus 2, SP one less, the cell kept; with SP = 0 `StackUnderflow(PC)` and nothing else (41_control_flow.md, RET; the
pattern is general knowledge, log 4; the fault is D9, log 8). -/
def Obligations.RetResult : Prop :=
  ∀ s : State, decodeWord 0x00EE#16 = some .ret ∧
    (s.sp ≠ 0#4 →
      Completes .ret s fun t =>
        t.pc = s.stackAt s.sp + 2#16 ∧ t.sp.toNat = s.sp.toNat - 1 ∧ t = { s with pc := t.pc, sp := t.sp } ∧ sameMemory s t) ∧
    (s.sp = 0#4 → exec .ret s = .next { s with fault := some (.stackUnderflow s.pc) })

/-- 2nnn: SP one more, the address of this CALL in the new top cell, PC becomes `nnn`; with SP = 15 `StackOverflow(PC)` and nothing else
(41_control_flow.md, CALL; the pattern is general knowledge, log 4; the fault is D9, log 8). -/
def Obligations.CallResult : Prop :=
  ∀ (nnn : Addr) (s : State), decodeWord (0x2#4 ++ nnn) = some (.call nnn) ∧
    (s.sp ≠ 15#4 →
      Completes (.call nnn) s fun t =>
        t.pc.toNat = nnn.toNat ∧ t.sp.toNat = s.sp.toNat + 1 ∧ t.stackAt t.sp = s.pc ∧
        (∀ j, j ≠ t.sp → t.stackAt j = s.stackAt j) ∧ t = { s with pc := t.pc, sp := t.sp, stack := t.stack } ∧ sameMemory s t) ∧
    (s.sp = 15#4 → exec (.call nnn) s = .next { s with fault := some (.stackOverflow s.pc) })

/-- Bnnn: PC becomes `nnn + V[x]` with `x` the top nibble of `nnn`, not cut to 12 bits (41_control_flow.md, JP V0; 16-bit PC is D12, log 17). -/
def Obligations.JpV0Result : Prop :=
  ∀ (nnn : Addr) (s : State), decodeWord (0xB#4 ++ nnn) = some (.jpV0 (nnn.extractLsb' 8 4) nnn) ∧
    Completes (.jpV0 (nnn.extractLsb' 8 4) nnn) s fun t =>
      t.pc.toNat = nnn.toNat + (s.reg (nnn.extractLsb' 8 4)).toNat ∧ t.pc.toNat ≤ 0x10FE ∧ onlyPc s t

/-! ### Skips, loads, arithmetic -/

/-- The four register skips: PC by 4 when the condition holds, else by 2, and nothing else (42_skip_load_alu.md section 1; the polarities are general
knowledge, D18, log 5). -/
def Obligations.RegisterSkips : Prop :=
  ∀ (x y : Nibble) (kk : Byte) (s : State),
    (decodeWord (0x3#4 ++ x ++ kk) = some (.seImm x kk) ∧
      Completes (.seImm x kk) s fun t => t.pc = s.pc + (if s.reg x = kk then 4#16 else 2#16) ∧ onlyPc s t) ∧
    (decodeWord (0x4#4 ++ x ++ kk) = some (.sneImm x kk) ∧
      Completes (.sneImm x kk) s fun t => t.pc = s.pc + (if s.reg x = kk then 2#16 else 4#16) ∧ onlyPc s t) ∧
    (decodeWord (0x5#4 ++ x ++ y ++ 0x0#4) = some (.seReg x y) ∧
      Completes (.seReg x y) s fun t => t.pc = s.pc + (if s.reg x = s.reg y then 4#16 else 2#16) ∧ onlyPc s t) ∧
    (decodeWord (0x9#4 ++ x ++ y ++ 0x0#4) = some (.sneReg x y) ∧
      Completes (.sneReg x y) s fun t => t.pc = s.pc + (if s.reg x = s.reg y then 2#16 else 4#16) ∧ onlyPc s t)

/-- 6xkk: `V[x] <- kk`; VF only when it is the destination (42_skip_load_alu.md R114). -/
def Obligations.LoadImmediateResult : Prop :=
  ∀ (x : Nibble) (kk : Byte) (s : State), decodeWord (0x6#4 ++ x ++ kk) = some (.ldImm x kk) ∧
    Completes (.ldImm x kk) s fun t =>
      t.reg x = kk ∧ sameRegsExcept [x] s t ∧ t.pc = s.pc + 2#16 ∧ onlyRegsAndPc s t

/-- 7xkk: the sum modulo 256, no flag (42_skip_load_alu.md R115). -/
def Obligations.AddImmediateResult : Prop :=
  ∀ (x : Nibble) (kk : Byte) (s : State), decodeWord (0x7#4 ++ x ++ kk) = some (.addImm x kk) ∧
    Completes (.addImm x kk) s fun t =>
      (t.reg x).toNat = ((s.reg x).toNat + kk.toNat) % 256 ∧ sameRegsExcept [x] s t ∧ t.pc = s.pc + 2#16 ∧ onlyRegsAndPc s t

/-- 8xy0: `V[x] <- V[y]`, no flag (42_skip_load_alu.md, LD Vx, Vy; the whole instruction is general knowledge, D16, log 3). -/
def Obligations.CopyRegisterResult : Prop :=
  ∀ (x y : Nibble) (s : State), decodeWord (0x8#4 ++ x ++ y ++ 0x0#4) = some (.ldReg x y) ∧
    Completes (.ldReg x y) s fun t =>
      t.reg x = s.reg y ∧ sameRegsExcept [x] s t ∧ t.pc = s.pc + 2#16 ∧ onlyRegsAndPc s t

/-- 8xy1, 8xy2, 8xy3: the bitwise result, then VF cleared, so that with `x = 15` VF ends 0 (42_skip_load_alu.md, OR, AND, XOR; the minor codes are
general knowledge, log 4). -/
def Obligations.LogicClearsVF : Prop :=
  ∀ (x y : Nibble) (s : State),
    (decodeWord (0x8#4 ++ x ++ y ++ 0x1#4) = some (.orReg x y) ∧
      Completes (.orReg x y) s fun t =>
        (x ≠ 15#4 → t.reg x = s.reg x ||| s.reg y) ∧ t.reg 15#4 = 0#8 ∧ sameRegsExcept [x, 15#4] s t ∧ t.pc = s.pc + 2#16 ∧
        onlyRegsAndPc s t) ∧
    (decodeWord (0x8#4 ++ x ++ y ++ 0x2#4) = some (.andReg x y) ∧
      Completes (.andReg x y) s fun t =>
        (x ≠ 15#4 → t.reg x = s.reg x &&& s.reg y) ∧ t.reg 15#4 = 0#8 ∧ sameRegsExcept [x, 15#4] s t ∧ t.pc = s.pc + 2#16 ∧
        onlyRegsAndPc s t) ∧
    (decodeWord (0x8#4 ++ x ++ y ++ 0x3#4) = some (.xorReg x y) ∧
      Completes (.xorReg x y) s fun t =>
        (x ≠ 15#4 → t.reg x = s.reg x ^^^ s.reg y) ∧ t.reg 15#4 = 0#8 ∧ sameRegsExcept [x, 15#4] s t ∧ t.pc = s.pc + 2#16 ∧
        onlyRegsAndPc s t)

/-- 8xy4: the sum modulo 256, then VF the carry; with `x = 15` VF ends as the carry (42_skip_load_alu.md R121). -/
def Obligations.AddRegisterResult : Prop :=
  ∀ (x y : Nibble) (s : State),
    Completes (.addReg x y) s fun t =>
      (x ≠ 15#4 → (t.reg x).toNat = ((s.reg x).toNat + (s.reg y).toNat) % 256) ∧
      t.reg 15#4 = (if (s.reg x).toNat + (s.reg y).toNat > 255 then 1#8 else 0#8) ∧
      sameRegsExcept [x, 15#4] s t ∧ t.pc = s.pc + 2#16 ∧ onlyRegsAndPc s t

/-- 8xy5 and 8xy7: the difference modulo 256 into `V[x]`, then VF 1 when no borrow occurred, equality included (42_skip_load_alu.md R122,
R124). -/
def Obligations.SubtractResults : Prop :=
  ∀ (x y : Nibble) (s : State),
    (Completes (.subReg x y) s fun t =>
        (x ≠ 15#4 → ((t.reg x).toNat : Int) = ((s.reg x).toNat - (s.reg y).toNat : Int) % 256) ∧
        t.reg 15#4 = (if (s.reg x).toNat ≥ (s.reg y).toNat then 1#8 else 0#8) ∧
        sameRegsExcept [x, 15#4] s t ∧ t.pc = s.pc + 2#16 ∧ onlyRegsAndPc s t) ∧
    (Completes (.subnReg x y) s fun t =>
        (x ≠ 15#4 → ((t.reg x).toNat : Int) = ((s.reg y).toNat - (s.reg x).toNat : Int) % 256) ∧
        t.reg 15#4 = (if (s.reg y).toNat ≥ (s.reg x).toNat then 1#8 else 0#8) ∧
        sameRegsExcept [x, 15#4] s t ∧ t.pc = s.pc + 2#16 ∧ onlyRegsAndPc s t)

/-- 8xy6 and 8xyE: `V[x]` shifted one bit in place, VF the bit shifted out, `V[y]` ignored (42_skip_load_alu.md, SHR, SHL; the minor codes are general
knowledge, log 4). -/
def Obligations.ShiftResults : Prop :=
  ∀ (x y : Nibble) (s : State),
    (decodeWord (0x8#4 ++ x ++ y ++ 0x6#4) = some (.shr x y) ∧
      Completes (.shr x y) s fun t =>
        (x ≠ 15#4 → (t.reg x).toNat = (s.reg x).toNat / 2) ∧ (t.reg 15#4).toNat = (s.reg x).toNat % 2 ∧
        sameRegsExcept [x, 15#4] s t ∧ t.pc = s.pc + 2#16 ∧ onlyRegsAndPc s t) ∧
    (decodeWord (0x8#4 ++ x ++ y ++ 0xE#4) = some (.shl x y) ∧
      Completes (.shl x y) s fun t =>
        (x ≠ 15#4 → (t.reg x).toNat = (s.reg x).toNat * 2 % 256) ∧ (t.reg 15#4).toNat = (s.reg x).toNat / 128 ∧
        sameRegsExcept [x, 15#4] s t ∧ t.pc = s.pc + 2#16 ∧ onlyRegsAndPc s t)

/-- Cxkk: `V[x] <- r AND kk` for the byte drawn; whatever byte `b` the environment supplies next is the one drawn, and without one the byte is a
free value (42_skip_load_alu.md, RND; the draw is D23, log 10). -/
def Obligations.RandomResult : Prop :=
  ∀ (x : Nibble) (kk b : Byte) (s : State), decodeWord (0xC#4 ++ x ++ kk) = some (.rnd x kk) ∧
    (Completes (.rnd x kk) { s with randomInput := b :: s.randomInput } fun t =>
      t.reg x = b &&& kk ∧ sameRegsExcept [x] s t ∧ t.pc = s.pc + 2#16 ∧ t = { s with v := t.v, pc := t.pc } ∧ sameMemory s t) ∧
    (Completes (.rnd x kk) s fun t =>
      (∃ r : Byte, t.reg x = r &&& kk) ∧ sameRegsExcept [x] s t ∧ t.pc = s.pc + 2#16 ∧
      t = { s with v := t.v, pc := t.pc, randomInput := t.randomInput, drawCount := t.drawCount } ∧ sameMemory s t)

/-! ### Memory and the index register -/

/-- Annn: `I <- nnn` (43_memory_index.md R140). -/
def Obligations.LoadIndexResult : Prop :=
  ∀ (nnn : Addr) (s : State), decodeWord (0xA#4 ++ nnn) = some (.ldI nnn) ∧
    Completes (.ldI nnn) s fun t =>
      t.i.toNat = nnn.toNat ∧ t.pc = s.pc + 2#16 ∧ t = { s with i := t.i, pc := t.pc } ∧ sameMemory s t

/-- Fx1E and Fx29: I plus `V[x]` modulo 65536 with VF untouched, and 5 times `V[x]` exactly (43_memory_index.md, ADD I, LD F; the wrap is D11, log 16, and the
missing mask D27, log 18). -/
def Obligations.IndexArithmeticResults : Prop :=
  ∀ (x : Nibble) (s : State),
    (decodeWord (0xF#4 ++ x ++ 0x1E#8) = some (.addI x) ∧
      Completes (.addI x) s fun t =>
        t.i.toNat = (s.i.toNat + (s.reg x).toNat) % 65536 ∧ t.pc = s.pc + 2#16 ∧ t = { s with i := t.i, pc := t.pc } ∧ sameMemory s t) ∧
    (decodeWord (0xF#4 ++ x ++ 0x29#8) = some (.ldF x) ∧
      Completes (.ldF x) s fun t =>
        t.i.toNat = 5 * (s.reg x).toNat ∧ t.pc = s.pc + 2#16 ∧ t = { s with i := t.i, pc := t.pc } ∧ sameMemory s t)

/-- Fx33: hundreds, tens, ones at I, I + 1, I + 2, every other byte as before, I unchanged; above 0xFFF a precise fault (43_memory_index.md, LD B; the
fault is D8, log 8). -/
def Obligations.StoreDigitsResult : Prop :=
  ∀ (x : Nibble) (s : State), decodeWord (0xF#4 ++ x ++ 0x33#8) = some (.ldB x) ∧
    (s.dataAddr 2 ≤ 0xFFF →
      Completes (.ldB x) s fun t =>
        (t.mem.read (s.dataAddr 0)).toNat = (s.reg x).toNat / 100 ∧
        (t.mem.read (s.dataAddr 1)).toNat = (s.reg x).toNat / 10 % 10 ∧
        (t.mem.read (s.dataAddr 2)).toNat = (s.reg x).toNat % 10 ∧
        sameMemoryOutside (s.dataAddr 0) 3 s t ∧ t.pc = s.pc + 2#16 ∧ t = { s with mem := t.mem, pc := t.pc }) ∧
    (0xFFF < s.dataAddr 2 → exec (.ldB x) s = .next { s with fault := some (.dataAddressOutOfRange (s.dataAddr 2)) })

/-- Fx55: V0 to Vx at I onwards, every other byte as before, I advanced by x + 1; above 0xFFF a precise fault (43_memory_index.md, LD [I], Vx; the fault is
D8, log 8). -/
def Obligations.StoreRegistersResult : Prop :=
  ∀ (x : Nibble) (s : State), decodeWord (0xF#4 ++ x ++ 0x55#8) = some (.ldMemVx x) ∧
    (s.dataAddr x.toNat ≤ 0xFFF →
      Completes (.ldMemVx x) s fun t =>
        (∀ r : Nibble, r.toNat ≤ x.toNat → t.mem.read (s.dataAddr r.toNat) = s.reg r) ∧
        sameMemoryOutside (s.dataAddr 0) (x.toNat + 1) s t ∧ t.i.toNat = s.i.toNat + x.toNat + 1 ∧ t.pc = s.pc + 2#16 ∧
        t = { s with mem := t.mem, i := t.i, pc := t.pc }) ∧
    (0xFFF < s.dataAddr x.toNat →
      exec (.ldMemVx x) s = .next { s with fault := some (.dataAddressOutOfRange (s.dataAddr x.toNat)) })

/-- Fx65: V0 to Vx from I onwards, the registers above Vx kept, I advanced by x + 1, memory unchanged; above 0xFFF a precise fault (43_memory_index.md,
LD Vx, [I]; the fault is D8, log 8). -/
def Obligations.LoadRegistersResult : Prop :=
  ∀ (x : Nibble) (s : State), decodeWord (0xF#4 ++ x ++ 0x65#8) = some (.ldVxMem x) ∧
    (s.dataAddr x.toNat ≤ 0xFFF →
      Completes (.ldVxMem x) s fun t =>
        (∀ r : Nibble, r.toNat ≤ x.toNat → t.reg r = s.mem.read (s.dataAddr r.toNat)) ∧
        (∀ r : Nibble, x.toNat < r.toNat → t.reg r = s.reg r) ∧ t.i.toNat = s.i.toNat + x.toNat + 1 ∧ t.pc = s.pc + 2#16 ∧
        t = { s with v := t.v, i := t.i, pc := t.pc } ∧ sameMemory s t) ∧
    (0xFFF < s.dataAddr x.toNat →
      exec (.ldVxMem x) s = .next { s with fault := some (.dataAddressOutOfRange (s.dataAddr x.toNat)) })

/-! ### Timers, keys, the key wait -/

/-- Fx07: `V[x] <- DT`; in a step, DT as already decremented in that step (44_timer_input.md R150). -/
def Obligations.ReadDelayTimerResult : Prop :=
  ∀ (x : Nibble) (s : State), decodeWord (0xF#4 ++ x ++ 0x07#8) = some (.ldVxDt x) ∧
    (Completes (.ldVxDt x) s fun t =>
      t.reg x = s.dt ∧ sameRegsExcept [x] s t ∧ t.pc = s.pc + 2#16 ∧ onlyRegsAndPc s t) ∧
    (s.decodesNext → s.fetchDecode = .instr (.ldVxDt x) → ∃ t, step s = .next t ∧ (t.reg x).toNat = s.dt.toNat - 1)

/-- Fx15 and Fx18: DT or ST becomes `V[x]`, and the value is first decremented in the next step (44_timer_input.md R151, R152). -/
def Obligations.WriteTimerResults : Prop :=
  ∀ (x : Nibble) (s : State),
    (decodeWord (0xF#4 ++ x ++ 0x15#8) = some (.ldDtVx x) ∧
      (Completes (.ldDtVx x) s fun t => t.dt = s.reg x ∧ t.pc = s.pc + 2#16 ∧ t = { s with dt := t.dt, pc := t.pc } ∧ sameMemory s t) ∧
      (s.decodesNext → s.fetchDecode = .instr (.ldDtVx x) → ∃ t, step s = .next t ∧ t.dt = s.reg x ∧
        ∀ u, step t = .next u → (∀ z, t.fetchDecode ≠ .instr (.ldDtVx z)) → u.dt.toNat = (s.reg x).toNat - 1)) ∧
    (decodeWord (0xF#4 ++ x ++ 0x18#8) = some (.ldStVx x) ∧
      (Completes (.ldStVx x) s fun t => t.st = s.reg x ∧ t.pc = s.pc + 2#16 ∧ t = { s with st := t.st, pc := t.pc } ∧ sameMemory s t) ∧
      (s.decodesNext → s.fetchDecode = .instr (.ldStVx x) → ∃ t, step s = .next t ∧ t.st = s.reg x ∧
        ∀ u, step t = .next u → (∀ z, t.fetchDecode ≠ .instr (.ldStVx z)) → u.st.toNat = (s.reg x).toNat - 1))

/-- Ex9E and ExA1: skip on the level of the key whose index is the low nibble of `V[x]` (44_timer_input.md, SKP, SKNP; the mask is D13, log 6). -/
def Obligations.KeySkips : Prop :=
  ∀ (x : Nibble) (s : State),
    (decodeWord (0xE#4 ++ x ++ 0x9E#8) = some (.skp x) ∧
      Completes (.skp x) s fun t =>
        t.pc = s.pc + (if s.key (BitVec.ofNat 4 ((s.reg x).toNat % 16)) = true then 4#16 else 2#16) ∧ onlyPc s t) ∧
    (decodeWord (0xE#4 ++ x ++ 0xA1#8) = some (.sknp x) ∧
      Completes (.sknp x) s fun t =>
        t.pc = s.pc + (if s.key (BitVec.ofNat 4 ((s.reg x).toNat % 16)) = true then 2#16 else 4#16) ∧ onlyPc s t)

/-- Fx0A: the latch becomes `AwaitingKey(x)`, PC moves at once, `V[x]` and every other register are not written, whatever keys are held; a step
requested then is ignored (44_timer_input.md, LD Vx, K; the ignored step is D14, log 7). -/
def Obligations.WaitKeyResult : Prop :=
  ∀ (x : Nibble) (s : State), decodeWord (0xF#4 ++ x ++ 0x0A#8) = some (.ldVxK x) ∧
    Completes (.ldVxK x) s fun t =>
      t.latch = .awaitingKey x ∧ t.awaitingKey = true ∧ t.pc = s.pc + 2#16 ∧ t = { s with latch := t.latch, pc := t.pc } ∧
      sameMemory s t ∧ step t = .next t

/-! ### The sprite engine -/

/-- One source bit on one cell of the display: XOR into the cell, OR (old AND new) into the flag, every other cell and the dimensions kept; a draw of
`n` rows starts from the flag false and plots the eight bits of each row on their target cells (46_sprite_engine.md R172, R173, R176). That the bits
are processed one at a time, rows ascending and columns leftmost first, is the spec's choice R175, D21 (log 20). -/
def Obligations.PlotXorsOneCell : Prop :=
  ∀ (d : Display) (bit collision : Bool) (r c : Nat), c < d.width →
    (plot bit r c (d, collision)).1.cell r c = Bool.xor (d.cell r c) bit ∧
    (plot bit r c (d, collision)).2 = (collision || (d.cell r c && bit)) ∧
    (∀ r' c', c' < d.width → (r', c') ≠ (r, c) → (plot bit r c (d, collision)).1.cell r' c' = d.cell r' c') ∧
    (plot bit r c (d, collision)).1.width = d.width ∧ (plot bit r c (d, collision)).1.height = d.height ∧
    (∀ (m : Memory) (base x0 y0 : Nat), blit d m base x0 y0 0 = (d, false) ∧
      ∀ n, blit d m base x0 y0 (n + 1) =
        (List.range 8).foldl
          (fun acc col => plot ((m.read (base + n)).getLsbD (7 - col)) ((y0 + n) % d.height) ((x0 + col) % d.width) acc)
          (blit d m base x0 y0 n))

/-- Dxyn against a specification without order: a cell ends as its value XOR the parity of the 1-bits that land on it, and VF is 1 exactly when some cell
received two or more, or was lit and received one; render set, I, memory and the other registers kept; above 0xFFF a precise fault, with
`n = 0` none (44_timer_input.md, DRW; 46_sprite_engine.md section on order, D21, log 20; D8, log 8; D28, log 26). -/
def Obligations.DrawMatchesParitySpec : Prop :=
  ∀ (x y n : Nibble) (s : State), decodeWord (0xD#4 ++ x ++ y ++ n) = some (.drw x y n) ∧
    (n = 0#4 ∨ s.dataAddr (n.toNat - 1) ≤ 0xFFF → 1 ≤ s.disp.width → 1 ≤ s.disp.height →
      Completes (.drw x y n) s fun t =>
        (∀ r c, r < s.disp.height → c < s.disp.width →
          t.disp.cell r c =
            Bool.xor (s.disp.cell r c) (spriteHits s (s.reg x).toNat (s.reg y).toNat n.toNat r c % 2 == 1)) ∧
        (t.reg 15#4 = 1#8 ∨ t.reg 15#4 = 0#8) ∧
        (t.reg 15#4 = 1#8 ↔
          ∃ r c, r < s.disp.height ∧ c < s.disp.width ∧
            (2 ≤ spriteHits s (s.reg x).toNat (s.reg y).toNat n.toNat r c ∨
              (s.disp.cell r c = true ∧ 1 ≤ spriteHits s (s.reg x).toNat (s.reg y).toNat n.toNat r c))) ∧
        sameRegsExcept [15#4] s t ∧ t.render = true ∧ t.pc = s.pc + 2#16 ∧ sameMemory s t ∧
        t.disp.width = s.disp.width ∧ t.disp.height = s.disp.height ∧
        t = { s with v := t.v, disp := t.disp, render := t.render, pc := t.pc }) ∧
    (n ≠ 0#4 → 0xFFF < s.dataAddr (n.toNat - 1) →
      exec (.drw x y n) s = .next { s with fault := some (.dataAddressOutOfRange (s.dataAddr (n.toNat - 1))) })

/-- Drawing a sprite twice at one origin restores any display whose target cells are distinct. The second draw collides exactly when some 1-bit lands on
a cell that was unlit before the first; from a blank display the first draw does not collide and the second does exactly when the sprite has a 1-bit
(46_sprite_engine.md section on properties, as far as the cell rule bears it out: log 32). -/
def Obligations.DrawTwiceRestores : Prop :=
  ∀ (x y n : Nibble) (s : State), s.disp.wf → 8 ≤ s.disp.width → 15 ≤ s.disp.height → x ≠ 15#4 → y ≠ 15#4 →
    (n = 0#4 ∨ s.dataAddr (n.toNat - 1) ≤ 0xFFF) →
    ∃ t u, exec (.drw x y n) s = .next t ∧ exec (.drw x y n) t = .next u ∧ u.disp = s.disp ∧
      (u.reg 15#4 = 1#8 ↔
        ∃ r c, r < s.disp.height ∧ c < s.disp.width ∧ s.disp.cell r c = false ∧
          1 ≤ spriteHits s (s.reg x).toNat (s.reg y).toNat n.toNat r c) ∧
      (s.disp.lit = [] → t.reg 15#4 = 0#8 ∧ (u.reg 15#4 = 1#8 ↔ spriteHasBit s n.toNat))

/-! ### The open parameters -/

/-- What the two parameters with an alternative value decide, and nothing else: without `HAS_LD_VX_VY` the words 8xy0 are invalid opcodes; under
`KEY_INDEX_POLICY = refuse` Ex9E and ExA1 with `V[x]` above 15 have no transition; every other step of the machine with those values is the step
of the machine (00_scope.md R7; the alternatives are D16 and D13, log 35). -/
def Obligations.ParametersDecideOnlyTheirPoint : Prop :=
  ∀ (p : Config.Params) (s : State),
    (p.hasLdVxVy = false → s.decodesNext → s.canFetch = true → ∀ x y : Nibble, s.fetchWord = 0x8#4 ++ x ++ y ++ 0x0#4 →
      stepWith p s = .next { s with
        reports := s.fetchWord :: s.reports, render := false, dt := BitVec.ofNat 8 (s.dt.toNat - 1),
        st := BitVec.ofNat 8 (s.st.toNat - 1) }) ∧
    (p.keyIndexPolicy = .refuse → s.decodesNext → s.canFetch = true → ∀ x : Nibble,
      s.fetchWord = 0xE#4 ++ x ++ 0x9E#8 ∨ s.fetchWord = 0xE#4 ++ x ++ 0xA1#8 → 15 < (s.reg x).toNat →
      stepWith p s = .refused .keyIndexAbove15) ∧
    ((p.hasLdVxVy = false → s.decodesNext → s.canFetch = true → ∀ x y : Nibble, s.fetchWord ≠ 0x8#4 ++ x ++ y ++ 0x0#4) →
      (p.keyIndexPolicy = .refuse → s.decodesNext → s.canFetch = true → ∀ x : Nibble,
        s.fetchWord = 0xE#4 ++ x ++ 0x9E#8 ∨ s.fetchWord = 0xE#4 ++ x ++ 0xA1#8 → (s.reg x).toNat ≤ 15) →
      stepWith p s = step s)
end

