-- ==== Sys2Proof/Laws/Display.lean ====
section
/-! SUPPORT. The laws of the display: cell after write, dimensions, and that every operation keeps its form. -/

namespace Sys2Proof.Machine

theorem contains_insertIndex (k j : Nat) (l : List Nat) : (insertIndex k l).contains j = (j == k || l.contains j) := by
  induction l with
  | nil => simp only [insertIndex, List.contains_cons]
  | cons h t ih =>
    unfold insertIndex
    split
    · simp only [List.contains_cons]
    · simp only [List.contains_cons, ih]
      cases j == h <;> cases j == k <;> rfl

theorem mem_insertIndex {k j : Nat} {l : List Nat} : j ∈ insertIndex k l ↔ j = k ∨ j ∈ l := by
  have := contains_insertIndex k j l
  rw [← List.contains_iff_mem, this]; simp

theorem insertIndex_sorted {l : List Nat} (k : Nat) (h : l.Pairwise (· < ·)) (hk : k ∉ l) : (insertIndex k l).Pairwise (· < ·) := by
  induction l with
  | nil => simp [insertIndex]
  | cons a t ih =>
    rw [List.pairwise_cons] at h
    rw [List.mem_cons, not_or] at hk
    unfold insertIndex
    split
    · rename_i hlt
      refine List.pairwise_cons.mpr ⟨fun j hj => ?_, List.pairwise_cons.mpr h⟩
      rcases List.mem_cons.mp hj with rfl | hj
      · exact hlt
      · exact lt_trans hlt (h.1 j hj)
    · refine List.pairwise_cons.mpr ⟨fun j hj => ?_, ih h.2 hk.2⟩
      rcases mem_insertIndex.mp hj with rfl | hj
      · omega
      · exact h.1 j hj

@[simp] theorem Display.setCell_width (d : Display) (r c : Nat) (b : Bool) : (d.setCell r c b).width = d.width := rfl
@[simp] theorem Display.setCell_height (d : Display) (r c : Nat) (b : Bool) : (d.setCell r c b).height = d.height := rfl
@[simp] theorem Display.clear_width (d : Display) : d.clear.width = d.width := rfl
@[simp] theorem Display.clear_height (d : Display) : d.clear.height = d.height := rfl
@[simp] theorem Display.clear_cell (d : Display) (r c : Nat) : d.clear.cell r c = false := rfl

/-- Whether an index is lit after a cell was written. -/
theorem Display.lit_setCell (d : Display) (r c k : Nat) (b : Bool) :
    (d.setCell r c b).lit.contains k = if k = d.index r c then b else d.lit.contains k := by
  have hf : ∀ j, (d.lit.filter fun x => x != d.index r c).contains j = (d.lit.contains j && j != d.index r c) := by
    intro j
    rw [Bool.eq_iff_iff]
    simp [List.mem_filter]
  cases b
  · simp only [Display.setCell, Bool.false_eq_true, if_false, hf]
    split <;> rename_i h <;> simp [h]
  · simp only [Display.setCell, if_true, contains_insertIndex, hf]
    split <;> rename_i h
    · simp only [h, beq_self_eq_true, Bool.true_or]
    · simp only [beq_eq_false_iff_ne.mpr h, bne, Bool.not_false, Bool.and_true, Bool.false_or]

/-- Distinct cells of one display have distinct row-major indices (R23). -/
theorem Display.index_inj (d : Display) {r c r' c' : Nat} (hc : c < d.width) (hc' : c' < d.width) :
    d.index r c = d.index r' c' ↔ r = r' ∧ c = c' := by
  constructor
  · intro h
    simp only [Display.index] at h
    have h1 := congrArg (· / d.width) h
    have h2 := congrArg (· % d.width) h
    simp only [Nat.mul_comm _ d.width, Nat.mul_add_div (show 0 < d.width by omega), Nat.div_eq_of_lt hc, Nat.div_eq_of_lt hc',
      Nat.mul_add_mod, Nat.mod_eq_of_lt hc, Nat.mod_eq_of_lt hc', Nat.add_zero] at h1 h2
    exact ⟨h1, h2⟩
  · rintro ⟨rfl, rfl⟩; rfl

/-- Read after write on the display (R173). -/
theorem Display.cell_setCell (d : Display) (r c r' c' : Nat) (b : Bool) (hc : c < d.width) (hc' : c' < d.width) :
    (d.setCell r c b).cell r' c' = if r' = r ∧ c' = c then b else d.cell r' c' := by
  have hi : (d.setCell r c b).index r' c' = d.index r' c' := rfl
  rw [Display.cell, hi, Display.lit_setCell]
  simp only [Display.index_inj d hc' hc]
  rfl

/-- Writing a cell of the display keeps its form. -/
theorem Display.setCell_wf {d : Display} (h : d.wf) {r c : Nat} (hr : r < d.height) (hc : c < d.width) (b : Bool) :
    (d.setCell r c b).wf := by
  obtain ⟨hw, hh, hs, hb⟩ := h
  have hfs : (d.lit.filter fun k => k != d.index r c).Pairwise (· < ·) := hs.sublist List.filter_sublist
  have hi : d.index r c < d.width * d.height := by
    have : r * d.width + d.width ≤ d.height * d.width := by
      rw [← Nat.succ_mul]; exact Nat.mul_le_mul_right _ hr
    rw [Display.index, Nat.mul_comm d.width]; omega
  refine ⟨hw, hh, ?_, ?_⟩
  · cases b
    · exact hfs
    · exact insertIndex_sorted _ hfs (by simp [List.mem_filter])
  · intro k hk
    cases b
    · exact hb k (List.mem_filter.mp hk).1
    · rcases mem_insertIndex.mp hk with rfl | hk
      · exact hi
      · exact hb k (List.mem_filter.mp hk).1

theorem Display.clear_wf {d : Display} (h : d.wf) : d.clear.wf := by
  exact ⟨h.1, h.2.1, by simp [Display.clear, Display.blank], by simp [Display.clear, Display.blank]⟩

/-! ### The engine keeps dimensions and form -/

@[simp] theorem plot_width (b : Bool) (r c : Nat) (acc : Display × Bool) : (plot b r c acc).1.width = acc.1.width := rfl
@[simp] theorem plot_height (b : Bool) (r c : Nat) (acc : Display × Bool) : (plot b r c acc).1.height = acc.1.height := rfl

/-- An induction over the bits of a sprite: what holds of the display before the draw and survives every bit on a cell of the
display holds after it (R175, R176). -/
theorem blit_induction {P : Display × Bool → Prop} (d : Display) (m : Memory) (base x0 y0 n : Nat) (h0 : P (d, false))
    (hstep : ∀ acc row col, acc.1.width = d.width → acc.1.height = d.height → row < n → col < 8 → P acc →
      P (plotColumn (m.read (base + row)) x0 (y0 + row) col acc)) :
    P (blit d m base x0 y0 n) ∧ (blit d m base x0 y0 n).1.width = d.width ∧ (blit d m base x0 y0 n).1.height = d.height := by
  let Q : Display × Bool → Prop := fun acc => P acc ∧ acc.1.width = d.width ∧ acc.1.height = d.height
  have hrow : ∀ row, row < n → ∀ (cols : List Nat) (acc : Display × Bool), (∀ c ∈ cols, c < 8) → Q acc →
      Q (cols.foldl (fun a col => plotColumn (m.read (base + row)) x0 (y0 + row) col a) acc) := by
    intro row hr cols
    induction cols with
    | nil => intro acc _ hq; exact hq
    | cons col cols ih =>
      intro acc hc hq
      rw [List.foldl_cons]
      refine ih _ (fun c h => hc c (by simp [h])) ?_
      exact ⟨hstep acc row col hq.2.1 hq.2.2 hr (hc col (by simp)) hq.1, hq.2.1, hq.2.2⟩
  have hall : ∀ (rows : List Nat) (acc : Display × Bool), (∀ r ∈ rows, r < n) → Q acc →
      Q (rows.foldl (fun a row => blitRow (m.read (base + row)) x0 (y0 + row) a) acc) := by
    intro rows
    induction rows with
    | nil => intro acc _ hq; exact hq
    | cons row rows ih =>
      intro acc hr hq
      rw [List.foldl_cons]
      refine ih _ (fun r h => hr r (by simp [h])) ?_
      unfold blitRow
      exact hrow row (hr row (by simp)) _ acc (fun c h => List.mem_range.mp h) hq
  unfold blit
  exact hall _ _ (fun r h => List.mem_range.mp h) ⟨h0, rfl, rfl⟩

@[simp] theorem blit_width (d : Display) (m : Memory) (base x0 y0 n : Nat) : (blit d m base x0 y0 n).1.width = d.width :=
  (blit_induction (P := fun _ => True) d m base x0 y0 n trivial (by intros; trivial)).2.1

@[simp] theorem blit_height (d : Display) (m : Memory) (base x0 y0 n : Nat) : (blit d m base x0 y0 n).1.height = d.height :=
  (blit_induction (P := fun _ => True) d m base x0 y0 n trivial (by intros; trivial)).2.2

/-- A draw keeps the display's form. -/
theorem blit_wf {d : Display} (h : d.wf) (m : Memory) (base x0 y0 n : Nat) : (blit d m base x0 y0 n).1.wf := by
  refine (blit_induction (P := fun acc => acc.1.wf) d m base x0 y0 n h ?_).1
  intro acc row col hw hh _ _ hp
  have hw1 := hp.1
  have hh1 := hp.2.1
  exact Display.setCell_wf hp (Nat.mod_lt _ (by omega)) (Nat.mod_lt _ (by omega)) _

/-- Two displays in form with the same dimensions and the same cells are equal, so the list of lit cells says nothing more than the grid
does (R23; log 14). -/
theorem Display.eq_of_cells {d e : Display} (hd : d.wf) (he : e.wf) (hw : d.width = e.width) (hh : d.height = e.height)
    (h : ∀ r c, r < d.height → c < d.width → d.cell r c = e.cell r c) : d = e := by
  have hlit : d.lit = e.lit := by
    apply List.Perm.eq_of_pairwise (le := (· < ·)) (fun a b _ _ h1 h2 => absurd h1 (by omega)) hd.2.2.1 he.2.2.1
    rw [List.perm_ext_iff_of_nodup (hd.2.2.1.imp Nat.ne_of_lt) (he.2.2.1.imp Nat.ne_of_lt)]
    intro k
    by_cases hk : k < d.width * d.height
    · have hc := h (k / d.width) (k % d.width) (Nat.div_lt_of_lt_mul hk) (Nat.mod_lt _ hd.1)
      simp only [Display.cell, Display.index, ← hw, Nat.div_add_mod'] at hc
      rw [← List.contains_iff_mem, ← List.contains_iff_mem, hc]
    · exact ⟨fun m => absurd (hd.2.2.2 k m) hk, fun m => absurd (hw ▸ hh ▸ he.2.2.2 k m) hk⟩
  cases d; cases e; simp_all

/-! ### The engine as one list of source bits -/

/-- Plot a list of source bits, each with its target row and column, one after the other. -/
def plotAll (bits : List (Bool × Nat × Nat)) (acc : Display × Bool) : Display × Bool :=
  bits.foldl (fun a h => plot h.1 h.2.1 h.2.2 a) acc

/-- The source bits of a draw in the engine's order, with their targets on a display of the given dimensions (R172, R175). -/
def sourceBits (width height : Nat) (m : Memory) (base x0 y0 n : Nat) : List (Bool × Nat × Nat) :=
  (List.range n).flatMap fun row =>
    (List.range 8).map fun col => ((m.read (base + row)).getLsbD (7 - col), (y0 + row) % height, (x0 + col) % width)

theorem plotAll_width (bits : List (Bool × Nat × Nat)) (acc : Display × Bool) : (plotAll bits acc).1.width = acc.1.width := by
  induction bits generalizing acc with
  | nil => rfl
  | cons h bits ih => exact ih _

theorem plotAll_height (bits : List (Bool × Nat × Nat)) (acc : Display × Bool) : (plotAll bits acc).1.height = acc.1.height := by
  induction bits generalizing acc with
  | nil => rfl
  | cons h bits ih => exact ih _

theorem blitColumns_eq (b : Byte) (x0 ry : Nat) (acc : Display × Bool) (cols : List Nat) :
    cols.foldl (fun a col => plotColumn b x0 ry col a) acc =
      plotAll (cols.map fun col => (b.getLsbD (7 - col), ry % acc.1.height, (x0 + col) % acc.1.width)) acc := by
  induction cols generalizing acc with
  | nil => rfl
  | cons c cols ih => rw [List.foldl_cons, ih]; rfl

/-- The two nested loops of the engine are one loop over the source bits (R175, R176). -/
theorem blit_eq_plotAll (d : Display) (m : Memory) (base x0 y0 n : Nat) :
    blit d m base x0 y0 n = plotAll (sourceBits d.width d.height m base x0 y0 n) (d, false) := by
  have h : ∀ (rows : List Nat) (acc : Display × Bool), acc.1.width = d.width → acc.1.height = d.height →
      rows.foldl (fun a row => blitRow (m.read (base + row)) x0 (y0 + row) a) acc =
        plotAll (rows.flatMap fun row => (List.range 8).map fun col =>
          ((m.read (base + row)).getLsbD (7 - col), (y0 + row) % d.height, (x0 + col) % d.width)) acc := by
    intro rows
    induction rows with
    | nil => intros; rfl
    | cons row rows ih =>
      intro acc hw hh
      rw [List.foldl_cons, List.flatMap_cons, blitRow, blitColumns_eq, ih _ (by rw [plotAll_width, hw]) (by rw [plotAll_height, hh]),
        hw, hh]
      simp only [plotAll, List.foldl_append]
  exact h _ _ rfl rfl

end Sys2Proof.Machine
end

