-- ==== Sys2Proof/Laws/Encoding.lean ====
section
/-! SUPPORT. The fields of a word that is written as its parts, one lemma a field and format (R61 to R63). -/

namespace Sys2Proof

/-- The number of a concatenation, the first part in the high bits (00_scope.md section 6.1). -/
theorem toNat_append_eq {n m : Nat} (x : BitVec n) (y : BitVec m) : (x ++ y).toNat = x.toNat * 2 ^ m + y.toNat := by
  rw [BitVec.toNat_append, ← Nat.shiftLeft_add_eq_or_of_lt y.isLt, Nat.shiftLeft_eq]

/-- A field of a word on numbers. -/
theorem toNat_extract (w : Word) (lo len : Nat) : (w.extractLsb' lo len).toNat = w.toNat / 2 ^ lo % 2 ^ len := by
  rw [BitVec.extractLsb'_toNat, Nat.shiftRight_eq_div_pow]

section formats
variable (a x y n : Nibble) (kk : Byte) (nnn : Addr)

/-! ### Format A -/

@[simp] theorem fieldN1_A : fieldN1 (a ++ nnn) = a := by
  apply BitVec.eq_of_toNat_eq
  have := a.isLt; have := nnn.isLt
  rw [fieldN1, toNat_extract, toNat_append_eq]; omega

@[simp] theorem fieldNnn_A : fieldNnn (a ++ nnn) = nnn := by
  apply BitVec.eq_of_toNat_eq
  have := nnn.isLt
  rw [fieldNnn, toNat_extract, toNat_append_eq]; omega

@[simp] theorem fieldX_A : fieldX (a ++ nnn) = addrTopNibble nnn := by
  apply BitVec.eq_of_toNat_eq
  have := nnn.isLt
  rw [fieldX, toNat_extract, toNat_append_eq, addrTopNibble, BitVec.extractLsb'_toNat, Nat.shiftRight_eq_div_pow]; omega

/-! ### Formats XK and X -/

@[simp] theorem fieldN1_XK : fieldN1 (a ++ x ++ kk) = a := by
  apply BitVec.eq_of_toNat_eq
  have := a.isLt; have := x.isLt; have := kk.isLt
  rw [fieldN1, toNat_extract, toNat_append_eq, toNat_append_eq]; omega

@[simp] theorem fieldX_XK : fieldX (a ++ x ++ kk) = x := by
  apply BitVec.eq_of_toNat_eq
  have := x.isLt; have := kk.isLt
  rw [fieldX, toNat_extract, toNat_append_eq, toNat_append_eq]; omega

@[simp] theorem fieldKk_XK : fieldKk (a ++ x ++ kk) = kk := by
  apply BitVec.eq_of_toNat_eq
  have := kk.isLt
  rw [fieldKk, toNat_extract, toNat_append_eq, toNat_append_eq]; omega

/-! ### Formats XY and XYN -/

@[simp] theorem fieldN1_XY : fieldN1 (a ++ x ++ y ++ n) = a := by
  apply BitVec.eq_of_toNat_eq
  have := a.isLt; have := x.isLt; have := y.isLt; have := n.isLt
  rw [fieldN1, toNat_extract, toNat_append_eq, toNat_append_eq, toNat_append_eq]; omega

@[simp] theorem fieldX_XY : fieldX (a ++ x ++ y ++ n) = x := by
  apply BitVec.eq_of_toNat_eq
  have := x.isLt; have := y.isLt; have := n.isLt
  rw [fieldX, toNat_extract, toNat_append_eq, toNat_append_eq, toNat_append_eq]; omega

@[simp] theorem fieldY_XY : fieldY (a ++ x ++ y ++ n) = y := by
  apply BitVec.eq_of_toNat_eq
  have := y.isLt; have := n.isLt
  rw [fieldY, toNat_extract, toNat_append_eq, toNat_append_eq, toNat_append_eq]; omega

@[simp] theorem fieldN_XY : fieldN (a ++ x ++ y ++ n) = n := by
  apply BitVec.eq_of_toNat_eq
  have := n.isLt
  rw [fieldN, toNat_extract, toNat_append_eq, toNat_append_eq, toNat_append_eq]; omega

end formats

/-! ### Numbers of the fields -/

theorem fieldN1_toNat (w : Word) : (fieldN1 w).toNat = w.toNat / 4096 := by
  have := w.isLt
  rw [fieldN1, toNat_extract]; omega

theorem fieldX_toNat (w : Word) : (fieldX w).toNat = w.toNat / 256 % 16 := toNat_extract w 8 4

theorem fieldY_toNat (w : Word) : (fieldY w).toNat = w.toNat / 16 % 16 := toNat_extract w 4 4

theorem fieldN_toNat (w : Word) : (fieldN w).toNat = w.toNat % 16 := by
  rw [fieldN, toNat_extract]; omega

theorem fieldKk_toNat (w : Word) : (fieldKk w).toNat = w.toNat % 256 := by
  rw [fieldKk, toNat_extract]; omega

theorem fieldNnn_toNat (w : Word) : (fieldNnn w).toNat = w.toNat % 4096 := by
  rw [fieldNnn, toNat_extract]; omega

/-- A word is its two bytes, high first (R43). -/
@[simp] theorem wordOfBytes_highByte_lowByte (w : Word) : wordOfBytes (highByte w) (lowByte w) = w := by
  apply BitVec.eq_of_toNat_eq
  have := w.isLt
  rw [wordOfBytes, toNat_append_eq, highByte, lowByte, toNat_extract, toNat_extract]; omega

/-! ### Selecting a row of the opcode map -/

theorem and_F000 (w : Word) : w &&& 0xF000#16 = fieldN1 w ++ 0#12 := by
  apply BitVec.eq_of_getLsbD_eq
  intro i hi
  rw [BitVec.getLsbD_and, BitVec.getLsbD_append, fieldN1, BitVec.getLsbD_extractLsb']
  interval_cases i <;> simp

theorem and_F00F (w : Word) : w &&& 0xF00F#16 = fieldN1 w ++ 0#8 ++ fieldN w := by
  apply BitVec.eq_of_getLsbD_eq
  intro i hi
  rw [BitVec.getLsbD_and, BitVec.getLsbD_append, BitVec.getLsbD_append, fieldN1, fieldN, BitVec.getLsbD_extractLsb',
    BitVec.getLsbD_extractLsb']
  interval_cases i <;> simp

theorem and_F0FF (w : Word) : w &&& 0xF0FF#16 = fieldN1 w ++ 0#4 ++ fieldKk w := by
  apply BitVec.eq_of_getLsbD_eq
  intro i hi
  rw [BitVec.getLsbD_and, BitVec.getLsbD_append, BitVec.getLsbD_append, fieldN1, fieldKk, BitVec.getLsbD_extractLsb',
    BitVec.getLsbD_extractLsb']
  interval_cases i <;> simp

/-- A row with all bits fixed selects one word. -/
theorem selects_FFFF (w b : Word) : (OpcodePattern.mk 0xFFFF#16 b).selects w = true ↔ w.toNat = b.toNat := by
  have h : w &&& 0xFFFF#16 = w := by
    apply BitVec.eq_of_getLsbD_eq; intro i hi; interval_cases i <;> simp
  simp [OpcodePattern.selects, h, BitVec.toNat_inj]

/-- A row with only n1 fixed selects by the major nibble. -/
theorem selects_F000 (w b : Word) : (OpcodePattern.mk 0xF000#16 b).selects w = true ↔ (fieldN1 w).toNat * 4096 = b.toNat := by
  have h : (w &&& 0xF000#16).toNat = (fieldN1 w).toNat * 4096 := by
    rw [and_F000]
    refine (toNat_append_eq _ _).trans ?_
    rw [BitVec.toNat_zero]; omega
  rw [OpcodePattern.selects, beq_iff_eq, ← BitVec.toNat_inj, h]

/-- A row with n1 and n4 fixed. -/
theorem selects_F00F (w b : Word) :
    (OpcodePattern.mk 0xF00F#16 b).selects w = true ↔ (fieldN1 w).toNat * 4096 + (fieldN w).toNat = b.toNat := by
  have h : (w &&& 0xF00F#16).toNat = (fieldN1 w).toNat * 4096 + (fieldN w).toNat := by
    rw [and_F00F]
    refine (toNat_append_eq _ _).trans ?_
    rw [toNat_append_eq, BitVec.toNat_zero]; omega
  rw [OpcodePattern.selects, beq_iff_eq, ← BitVec.toNat_inj, h]

/-- A row with n1 and the low byte fixed. -/
theorem selects_F0FF (w b : Word) :
    (OpcodePattern.mk 0xF0FF#16 b).selects w = true ↔ (fieldN1 w).toNat * 4096 + (fieldKk w).toNat = b.toNat := by
  have h : (w &&& 0xF0FF#16).toNat = (fieldN1 w).toNat * 4096 + (fieldKk w).toNat := by
    rw [and_F0FF]
    refine (toNat_append_eq _ _).trans ?_
    rw [toNat_append_eq, BitVec.toNat_zero]; omega
  rw [OpcodePattern.selects, beq_iff_eq, ← BitVec.toNat_inj, h]

end Sys2Proof
end

