-- ==== Sys2Proof/Laws/State.lean ====
section
/-! SUPPORT. What each named update leaves in each field of State, one lemma a field, so that no proof unfolds a record update. -/

namespace Sys2Proof.Machine

@[simp] theorem State.setReg_i (s : State) (r : Nibble) (b : Byte) : (s.setReg r b).i = s.i := rfl
@[simp] theorem State.setReg_pc (s : State) (r : Nibble) (b : Byte) : (s.setReg r b).pc = s.pc := rfl
@[simp] theorem State.setReg_sp (s : State) (r : Nibble) (b : Byte) : (s.setReg r b).sp = s.sp := rfl
@[simp] theorem State.setReg_stack (s : State) (r : Nibble) (b : Byte) : (s.setReg r b).stack = s.stack := rfl
@[simp] theorem State.setReg_dt (s : State) (r : Nibble) (b : Byte) : (s.setReg r b).dt = s.dt := rfl
@[simp] theorem State.setReg_st (s : State) (r : Nibble) (b : Byte) : (s.setReg r b).st = s.st := rfl
@[simp] theorem State.setReg_mem (s : State) (r : Nibble) (b : Byte) : (s.setReg r b).mem = s.mem := rfl
@[simp] theorem State.setReg_keys (s : State) (r : Nibble) (b : Byte) : (s.setReg r b).keys = s.keys := rfl
@[simp] theorem State.setReg_disp (s : State) (r : Nibble) (b : Byte) : (s.setReg r b).disp = s.disp := rfl
@[simp] theorem State.setReg_latch (s : State) (r : Nibble) (b : Byte) : (s.setReg r b).latch = s.latch := rfl
@[simp] theorem State.setReg_render (s : State) (r : Nibble) (b : Byte) : (s.setReg r b).render = s.render := rfl
@[simp] theorem State.setReg_fault (s : State) (r : Nibble) (b : Byte) : (s.setReg r b).fault = s.fault := rfl
@[simp] theorem State.setReg_reports (s : State) (r : Nibble) (b : Byte) : (s.setReg r b).reports = s.reports := rfl
@[simp] theorem State.setReg_randomInput (s : State) (r : Nibble) (b : Byte) : (s.setReg r b).randomInput = s.randomInput := rfl
@[simp] theorem State.setReg_drawCount (s : State) (r : Nibble) (b : Byte) : (s.setReg r b).drawCount = s.drawCount := rfl

@[simp] theorem State.setI_v (s : State) (w : Word) : (s.setI w).v = s.v := rfl
@[simp] theorem State.setI_i (s : State) (w : Word) : (s.setI w).i = w := rfl
@[simp] theorem State.setI_pc (s : State) (w : Word) : (s.setI w).pc = s.pc := rfl
@[simp] theorem State.setI_sp (s : State) (w : Word) : (s.setI w).sp = s.sp := rfl
@[simp] theorem State.setI_stack (s : State) (w : Word) : (s.setI w).stack = s.stack := rfl
@[simp] theorem State.setI_dt (s : State) (w : Word) : (s.setI w).dt = s.dt := rfl
@[simp] theorem State.setI_st (s : State) (w : Word) : (s.setI w).st = s.st := rfl
@[simp] theorem State.setI_mem (s : State) (w : Word) : (s.setI w).mem = s.mem := rfl
@[simp] theorem State.setI_keys (s : State) (w : Word) : (s.setI w).keys = s.keys := rfl
@[simp] theorem State.setI_disp (s : State) (w : Word) : (s.setI w).disp = s.disp := rfl
@[simp] theorem State.setI_latch (s : State) (w : Word) : (s.setI w).latch = s.latch := rfl
@[simp] theorem State.setI_render (s : State) (w : Word) : (s.setI w).render = s.render := rfl
@[simp] theorem State.setI_fault (s : State) (w : Word) : (s.setI w).fault = s.fault := rfl
@[simp] theorem State.setI_reports (s : State) (w : Word) : (s.setI w).reports = s.reports := rfl
@[simp] theorem State.setI_randomInput (s : State) (w : Word) : (s.setI w).randomInput = s.randomInput := rfl
@[simp] theorem State.setI_drawCount (s : State) (w : Word) : (s.setI w).drawCount = s.drawCount := rfl

@[simp] theorem State.setPc_v (s : State) (w : Word) : (s.setPc w).v = s.v := rfl
@[simp] theorem State.setPc_i (s : State) (w : Word) : (s.setPc w).i = s.i := rfl
@[simp] theorem State.setPc_pc (s : State) (w : Word) : (s.setPc w).pc = w := rfl
@[simp] theorem State.setPc_sp (s : State) (w : Word) : (s.setPc w).sp = s.sp := rfl
@[simp] theorem State.setPc_stack (s : State) (w : Word) : (s.setPc w).stack = s.stack := rfl
@[simp] theorem State.setPc_dt (s : State) (w : Word) : (s.setPc w).dt = s.dt := rfl
@[simp] theorem State.setPc_st (s : State) (w : Word) : (s.setPc w).st = s.st := rfl
@[simp] theorem State.setPc_mem (s : State) (w : Word) : (s.setPc w).mem = s.mem := rfl
@[simp] theorem State.setPc_keys (s : State) (w : Word) : (s.setPc w).keys = s.keys := rfl
@[simp] theorem State.setPc_disp (s : State) (w : Word) : (s.setPc w).disp = s.disp := rfl
@[simp] theorem State.setPc_latch (s : State) (w : Word) : (s.setPc w).latch = s.latch := rfl
@[simp] theorem State.setPc_render (s : State) (w : Word) : (s.setPc w).render = s.render := rfl
@[simp] theorem State.setPc_fault (s : State) (w : Word) : (s.setPc w).fault = s.fault := rfl
@[simp] theorem State.setPc_reports (s : State) (w : Word) : (s.setPc w).reports = s.reports := rfl
@[simp] theorem State.setPc_randomInput (s : State) (w : Word) : (s.setPc w).randomInput = s.randomInput := rfl
@[simp] theorem State.setPc_drawCount (s : State) (w : Word) : (s.setPc w).drawCount = s.drawCount := rfl

@[simp] theorem State.advance_v (s : State) (k : Word) : (s.advance k).v = s.v := rfl
@[simp] theorem State.advance_i (s : State) (k : Word) : (s.advance k).i = s.i := rfl
@[simp] theorem State.advance_pc (s : State) (k : Word) : (s.advance k).pc = s.pc + k := rfl
@[simp] theorem State.advance_sp (s : State) (k : Word) : (s.advance k).sp = s.sp := rfl
@[simp] theorem State.advance_stack (s : State) (k : Word) : (s.advance k).stack = s.stack := rfl
@[simp] theorem State.advance_dt (s : State) (k : Word) : (s.advance k).dt = s.dt := rfl
@[simp] theorem State.advance_st (s : State) (k : Word) : (s.advance k).st = s.st := rfl
@[simp] theorem State.advance_mem (s : State) (k : Word) : (s.advance k).mem = s.mem := rfl
@[simp] theorem State.advance_keys (s : State) (k : Word) : (s.advance k).keys = s.keys := rfl
@[simp] theorem State.advance_disp (s : State) (k : Word) : (s.advance k).disp = s.disp := rfl
@[simp] theorem State.advance_latch (s : State) (k : Word) : (s.advance k).latch = s.latch := rfl
@[simp] theorem State.advance_render (s : State) (k : Word) : (s.advance k).render = s.render := rfl
@[simp] theorem State.advance_fault (s : State) (k : Word) : (s.advance k).fault = s.fault := rfl
@[simp] theorem State.advance_reports (s : State) (k : Word) : (s.advance k).reports = s.reports := rfl
@[simp] theorem State.advance_randomInput (s : State) (k : Word) : (s.advance k).randomInput = s.randomInput := rfl
@[simp] theorem State.advance_drawCount (s : State) (k : Word) : (s.advance k).drawCount = s.drawCount := rfl

@[simp] theorem State.setDt_v (s : State) (b : Byte) : (s.setDt b).v = s.v := rfl
@[simp] theorem State.setDt_i (s : State) (b : Byte) : (s.setDt b).i = s.i := rfl
@[simp] theorem State.setDt_pc (s : State) (b : Byte) : (s.setDt b).pc = s.pc := rfl
@[simp] theorem State.setDt_sp (s : State) (b : Byte) : (s.setDt b).sp = s.sp := rfl
@[simp] theorem State.setDt_stack (s : State) (b : Byte) : (s.setDt b).stack = s.stack := rfl
@[simp] theorem State.setDt_dt (s : State) (b : Byte) : (s.setDt b).dt = b := rfl
@[simp] theorem State.setDt_st (s : State) (b : Byte) : (s.setDt b).st = s.st := rfl
@[simp] theorem State.setDt_mem (s : State) (b : Byte) : (s.setDt b).mem = s.mem := rfl
@[simp] theorem State.setDt_keys (s : State) (b : Byte) : (s.setDt b).keys = s.keys := rfl
@[simp] theorem State.setDt_disp (s : State) (b : Byte) : (s.setDt b).disp = s.disp := rfl
@[simp] theorem State.setDt_latch (s : State) (b : Byte) : (s.setDt b).latch = s.latch := rfl
@[simp] theorem State.setDt_render (s : State) (b : Byte) : (s.setDt b).render = s.render := rfl
@[simp] theorem State.setDt_fault (s : State) (b : Byte) : (s.setDt b).fault = s.fault := rfl
@[simp] theorem State.setDt_reports (s : State) (b : Byte) : (s.setDt b).reports = s.reports := rfl
@[simp] theorem State.setDt_randomInput (s : State) (b : Byte) : (s.setDt b).randomInput = s.randomInput := rfl
@[simp] theorem State.setDt_drawCount (s : State) (b : Byte) : (s.setDt b).drawCount = s.drawCount := rfl

@[simp] theorem State.setSt_v (s : State) (b : Byte) : (s.setSt b).v = s.v := rfl
@[simp] theorem State.setSt_i (s : State) (b : Byte) : (s.setSt b).i = s.i := rfl
@[simp] theorem State.setSt_pc (s : State) (b : Byte) : (s.setSt b).pc = s.pc := rfl
@[simp] theorem State.setSt_sp (s : State) (b : Byte) : (s.setSt b).sp = s.sp := rfl
@[simp] theorem State.setSt_stack (s : State) (b : Byte) : (s.setSt b).stack = s.stack := rfl
@[simp] theorem State.setSt_dt (s : State) (b : Byte) : (s.setSt b).dt = s.dt := rfl
@[simp] theorem State.setSt_st (s : State) (b : Byte) : (s.setSt b).st = b := rfl
@[simp] theorem State.setSt_mem (s : State) (b : Byte) : (s.setSt b).mem = s.mem := rfl
@[simp] theorem State.setSt_keys (s : State) (b : Byte) : (s.setSt b).keys = s.keys := rfl
@[simp] theorem State.setSt_disp (s : State) (b : Byte) : (s.setSt b).disp = s.disp := rfl
@[simp] theorem State.setSt_latch (s : State) (b : Byte) : (s.setSt b).latch = s.latch := rfl
@[simp] theorem State.setSt_render (s : State) (b : Byte) : (s.setSt b).render = s.render := rfl
@[simp] theorem State.setSt_fault (s : State) (b : Byte) : (s.setSt b).fault = s.fault := rfl
@[simp] theorem State.setSt_reports (s : State) (b : Byte) : (s.setSt b).reports = s.reports := rfl
@[simp] theorem State.setSt_randomInput (s : State) (b : Byte) : (s.setSt b).randomInput = s.randomInput := rfl
@[simp] theorem State.setSt_drawCount (s : State) (b : Byte) : (s.setSt b).drawCount = s.drawCount := rfl

@[simp] theorem State.setLatch_v (s : State) (l : Latch) : (s.setLatch l).v = s.v := rfl
@[simp] theorem State.setLatch_i (s : State) (l : Latch) : (s.setLatch l).i = s.i := rfl
@[simp] theorem State.setLatch_pc (s : State) (l : Latch) : (s.setLatch l).pc = s.pc := rfl
@[simp] theorem State.setLatch_sp (s : State) (l : Latch) : (s.setLatch l).sp = s.sp := rfl
@[simp] theorem State.setLatch_stack (s : State) (l : Latch) : (s.setLatch l).stack = s.stack := rfl
@[simp] theorem State.setLatch_dt (s : State) (l : Latch) : (s.setLatch l).dt = s.dt := rfl
@[simp] theorem State.setLatch_st (s : State) (l : Latch) : (s.setLatch l).st = s.st := rfl
@[simp] theorem State.setLatch_mem (s : State) (l : Latch) : (s.setLatch l).mem = s.mem := rfl
@[simp] theorem State.setLatch_keys (s : State) (l : Latch) : (s.setLatch l).keys = s.keys := rfl
@[simp] theorem State.setLatch_disp (s : State) (l : Latch) : (s.setLatch l).disp = s.disp := rfl
@[simp] theorem State.setLatch_latch (s : State) (l : Latch) : (s.setLatch l).latch = l := rfl
@[simp] theorem State.setLatch_render (s : State) (l : Latch) : (s.setLatch l).render = s.render := rfl
@[simp] theorem State.setLatch_fault (s : State) (l : Latch) : (s.setLatch l).fault = s.fault := rfl
@[simp] theorem State.setLatch_reports (s : State) (l : Latch) : (s.setLatch l).reports = s.reports := rfl
@[simp] theorem State.setLatch_randomInput (s : State) (l : Latch) : (s.setLatch l).randomInput = s.randomInput := rfl
@[simp] theorem State.setLatch_drawCount (s : State) (l : Latch) : (s.setLatch l).drawCount = s.drawCount := rfl

@[simp] theorem State.setRender_v (s : State) (b : Bool) : (s.setRender b).v = s.v := rfl
@[simp] theorem State.setRender_i (s : State) (b : Bool) : (s.setRender b).i = s.i := rfl
@[simp] theorem State.setRender_pc (s : State) (b : Bool) : (s.setRender b).pc = s.pc := rfl
@[simp] theorem State.setRender_sp (s : State) (b : Bool) : (s.setRender b).sp = s.sp := rfl
@[simp] theorem State.setRender_stack (s : State) (b : Bool) : (s.setRender b).stack = s.stack := rfl
@[simp] theorem State.setRender_dt (s : State) (b : Bool) : (s.setRender b).dt = s.dt := rfl
@[simp] theorem State.setRender_st (s : State) (b : Bool) : (s.setRender b).st = s.st := rfl
@[simp] theorem State.setRender_mem (s : State) (b : Bool) : (s.setRender b).mem = s.mem := rfl
@[simp] theorem State.setRender_keys (s : State) (b : Bool) : (s.setRender b).keys = s.keys := rfl
@[simp] theorem State.setRender_disp (s : State) (b : Bool) : (s.setRender b).disp = s.disp := rfl
@[simp] theorem State.setRender_latch (s : State) (b : Bool) : (s.setRender b).latch = s.latch := rfl
@[simp] theorem State.setRender_render (s : State) (b : Bool) : (s.setRender b).render = b := rfl
@[simp] theorem State.setRender_fault (s : State) (b : Bool) : (s.setRender b).fault = s.fault := rfl
@[simp] theorem State.setRender_reports (s : State) (b : Bool) : (s.setRender b).reports = s.reports := rfl
@[simp] theorem State.setRender_randomInput (s : State) (b : Bool) : (s.setRender b).randomInput = s.randomInput := rfl
@[simp] theorem State.setRender_drawCount (s : State) (b : Bool) : (s.setRender b).drawCount = s.drawCount := rfl

@[simp] theorem State.setMem_v (s : State) (m : Memory) : (s.setMem m).v = s.v := rfl
@[simp] theorem State.setMem_i (s : State) (m : Memory) : (s.setMem m).i = s.i := rfl
@[simp] theorem State.setMem_pc (s : State) (m : Memory) : (s.setMem m).pc = s.pc := rfl
@[simp] theorem State.setMem_sp (s : State) (m : Memory) : (s.setMem m).sp = s.sp := rfl
@[simp] theorem State.setMem_stack (s : State) (m : Memory) : (s.setMem m).stack = s.stack := rfl
@[simp] theorem State.setMem_dt (s : State) (m : Memory) : (s.setMem m).dt = s.dt := rfl
@[simp] theorem State.setMem_st (s : State) (m : Memory) : (s.setMem m).st = s.st := rfl
@[simp] theorem State.setMem_mem (s : State) (m : Memory) : (s.setMem m).mem = m := rfl
@[simp] theorem State.setMem_keys (s : State) (m : Memory) : (s.setMem m).keys = s.keys := rfl
@[simp] theorem State.setMem_disp (s : State) (m : Memory) : (s.setMem m).disp = s.disp := rfl
@[simp] theorem State.setMem_latch (s : State) (m : Memory) : (s.setMem m).latch = s.latch := rfl
@[simp] theorem State.setMem_render (s : State) (m : Memory) : (s.setMem m).render = s.render := rfl
@[simp] theorem State.setMem_fault (s : State) (m : Memory) : (s.setMem m).fault = s.fault := rfl
@[simp] theorem State.setMem_reports (s : State) (m : Memory) : (s.setMem m).reports = s.reports := rfl
@[simp] theorem State.setMem_randomInput (s : State) (m : Memory) : (s.setMem m).randomInput = s.randomInput := rfl
@[simp] theorem State.setMem_drawCount (s : State) (m : Memory) : (s.setMem m).drawCount = s.drawCount := rfl

@[simp] theorem State.setDisp_v (s : State) (d : Display) : (s.setDisp d).v = s.v := rfl
@[simp] theorem State.setDisp_i (s : State) (d : Display) : (s.setDisp d).i = s.i := rfl
@[simp] theorem State.setDisp_pc (s : State) (d : Display) : (s.setDisp d).pc = s.pc := rfl
@[simp] theorem State.setDisp_sp (s : State) (d : Display) : (s.setDisp d).sp = s.sp := rfl
@[simp] theorem State.setDisp_stack (s : State) (d : Display) : (s.setDisp d).stack = s.stack := rfl
@[simp] theorem State.setDisp_dt (s : State) (d : Display) : (s.setDisp d).dt = s.dt := rfl
@[simp] theorem State.setDisp_st (s : State) (d : Display) : (s.setDisp d).st = s.st := rfl
@[simp] theorem State.setDisp_mem (s : State) (d : Display) : (s.setDisp d).mem = s.mem := rfl
@[simp] theorem State.setDisp_keys (s : State) (d : Display) : (s.setDisp d).keys = s.keys := rfl
@[simp] theorem State.setDisp_disp (s : State) (d : Display) : (s.setDisp d).disp = d := rfl
@[simp] theorem State.setDisp_latch (s : State) (d : Display) : (s.setDisp d).latch = s.latch := rfl
@[simp] theorem State.setDisp_render (s : State) (d : Display) : (s.setDisp d).render = s.render := rfl
@[simp] theorem State.setDisp_fault (s : State) (d : Display) : (s.setDisp d).fault = s.fault := rfl
@[simp] theorem State.setDisp_reports (s : State) (d : Display) : (s.setDisp d).reports = s.reports := rfl
@[simp] theorem State.setDisp_randomInput (s : State) (d : Display) : (s.setDisp d).randomInput = s.randomInput := rfl
@[simp] theorem State.setDisp_drawCount (s : State) (d : Display) : (s.setDisp d).drawCount = s.drawCount := rfl

@[simp] theorem State.push_v (s : State) (w : Word) : (s.push w).v = s.v := rfl
@[simp] theorem State.push_i (s : State) (w : Word) : (s.push w).i = s.i := rfl
@[simp] theorem State.push_pc (s : State) (w : Word) : (s.push w).pc = s.pc := rfl
@[simp] theorem State.push_sp (s : State) (w : Word) : (s.push w).sp = s.sp + 1#4 := rfl
@[simp] theorem State.push_dt (s : State) (w : Word) : (s.push w).dt = s.dt := rfl
@[simp] theorem State.push_st (s : State) (w : Word) : (s.push w).st = s.st := rfl
@[simp] theorem State.push_mem (s : State) (w : Word) : (s.push w).mem = s.mem := rfl
@[simp] theorem State.push_keys (s : State) (w : Word) : (s.push w).keys = s.keys := rfl
@[simp] theorem State.push_disp (s : State) (w : Word) : (s.push w).disp = s.disp := rfl
@[simp] theorem State.push_latch (s : State) (w : Word) : (s.push w).latch = s.latch := rfl
@[simp] theorem State.push_render (s : State) (w : Word) : (s.push w).render = s.render := rfl
@[simp] theorem State.push_fault (s : State) (w : Word) : (s.push w).fault = s.fault := rfl
@[simp] theorem State.push_reports (s : State) (w : Word) : (s.push w).reports = s.reports := rfl
@[simp] theorem State.push_randomInput (s : State) (w : Word) : (s.push w).randomInput = s.randomInput := rfl
@[simp] theorem State.push_drawCount (s : State) (w : Word) : (s.push w).drawCount = s.drawCount := rfl

@[simp] theorem State.pop_v (s : State) : s.pop.v = s.v := rfl
@[simp] theorem State.pop_i (s : State) : s.pop.i = s.i := rfl
@[simp] theorem State.pop_pc (s : State) : s.pop.pc = s.pc := rfl
@[simp] theorem State.pop_sp (s : State) : s.pop.sp = s.sp - 1#4 := rfl
@[simp] theorem State.pop_stack (s : State) : s.pop.stack = s.stack := rfl
@[simp] theorem State.pop_dt (s : State) : s.pop.dt = s.dt := rfl
@[simp] theorem State.pop_st (s : State) : s.pop.st = s.st := rfl
@[simp] theorem State.pop_mem (s : State) : s.pop.mem = s.mem := rfl
@[simp] theorem State.pop_keys (s : State) : s.pop.keys = s.keys := rfl
@[simp] theorem State.pop_disp (s : State) : s.pop.disp = s.disp := rfl
@[simp] theorem State.pop_latch (s : State) : s.pop.latch = s.latch := rfl
@[simp] theorem State.pop_render (s : State) : s.pop.render = s.render := rfl
@[simp] theorem State.pop_fault (s : State) : s.pop.fault = s.fault := rfl
@[simp] theorem State.pop_reports (s : State) : s.pop.reports = s.reports := rfl
@[simp] theorem State.pop_randomInput (s : State) : s.pop.randomInput = s.randomInput := rfl
@[simp] theorem State.pop_drawCount (s : State) : s.pop.drawCount = s.drawCount := rfl

@[simp] theorem State.setKey_v (s : State) (j : Nibble) (b : Bool) : (s.setKey j b).v = s.v := rfl
@[simp] theorem State.setKey_i (s : State) (j : Nibble) (b : Bool) : (s.setKey j b).i = s.i := rfl
@[simp] theorem State.setKey_pc (s : State) (j : Nibble) (b : Bool) : (s.setKey j b).pc = s.pc := rfl
@[simp] theorem State.setKey_sp (s : State) (j : Nibble) (b : Bool) : (s.setKey j b).sp = s.sp := rfl
@[simp] theorem State.setKey_stack (s : State) (j : Nibble) (b : Bool) : (s.setKey j b).stack = s.stack := rfl
@[simp] theorem State.setKey_dt (s : State) (j : Nibble) (b : Bool) : (s.setKey j b).dt = s.dt := rfl
@[simp] theorem State.setKey_st (s : State) (j : Nibble) (b : Bool) : (s.setKey j b).st = s.st := rfl
@[simp] theorem State.setKey_mem (s : State) (j : Nibble) (b : Bool) : (s.setKey j b).mem = s.mem := rfl
@[simp] theorem State.setKey_disp (s : State) (j : Nibble) (b : Bool) : (s.setKey j b).disp = s.disp := rfl
@[simp] theorem State.setKey_latch (s : State) (j : Nibble) (b : Bool) : (s.setKey j b).latch = s.latch := rfl
@[simp] theorem State.setKey_render (s : State) (j : Nibble) (b : Bool) : (s.setKey j b).render = s.render := rfl
@[simp] theorem State.setKey_fault (s : State) (j : Nibble) (b : Bool) : (s.setKey j b).fault = s.fault := rfl
@[simp] theorem State.setKey_reports (s : State) (j : Nibble) (b : Bool) : (s.setKey j b).reports = s.reports := rfl
@[simp] theorem State.setKey_randomInput (s : State) (j : Nibble) (b : Bool) : (s.setKey j b).randomInput = s.randomInput := rfl
@[simp] theorem State.setKey_drawCount (s : State) (j : Nibble) (b : Bool) : (s.setKey j b).drawCount = s.drawCount := rfl

@[simp] theorem State.reportInvalid_v (s : State) (w : Word) : (s.reportInvalid w).v = s.v := rfl
@[simp] theorem State.reportInvalid_i (s : State) (w : Word) : (s.reportInvalid w).i = s.i := rfl
@[simp] theorem State.reportInvalid_pc (s : State) (w : Word) : (s.reportInvalid w).pc = s.pc := rfl
@[simp] theorem State.reportInvalid_sp (s : State) (w : Word) : (s.reportInvalid w).sp = s.sp := rfl
@[simp] theorem State.reportInvalid_stack (s : State) (w : Word) : (s.reportInvalid w).stack = s.stack := rfl
@[simp] theorem State.reportInvalid_dt (s : State) (w : Word) : (s.reportInvalid w).dt = s.dt := rfl
@[simp] theorem State.reportInvalid_st (s : State) (w : Word) : (s.reportInvalid w).st = s.st := rfl
@[simp] theorem State.reportInvalid_mem (s : State) (w : Word) : (s.reportInvalid w).mem = s.mem := rfl
@[simp] theorem State.reportInvalid_keys (s : State) (w : Word) : (s.reportInvalid w).keys = s.keys := rfl
@[simp] theorem State.reportInvalid_disp (s : State) (w : Word) : (s.reportInvalid w).disp = s.disp := rfl
@[simp] theorem State.reportInvalid_latch (s : State) (w : Word) : (s.reportInvalid w).latch = s.latch := rfl
@[simp] theorem State.reportInvalid_render (s : State) (w : Word) : (s.reportInvalid w).render = s.render := rfl
@[simp] theorem State.reportInvalid_fault (s : State) (w : Word) : (s.reportInvalid w).fault = s.fault := rfl
@[simp] theorem State.reportInvalid_reports (s : State) (w : Word) : (s.reportInvalid w).reports = w :: s.reports := rfl
@[simp] theorem State.reportInvalid_randomInput (s : State) (w : Word) : (s.reportInvalid w).randomInput = s.randomInput := rfl
@[simp] theorem State.reportInvalid_drawCount (s : State) (w : Word) : (s.reportInvalid w).drawCount = s.drawCount := rfl

@[simp] theorem State.setVF_i (s : State) (b : Bool) : (s.setVF b).i = s.i := rfl
@[simp] theorem State.setVF_pc (s : State) (b : Bool) : (s.setVF b).pc = s.pc := rfl
@[simp] theorem State.setVF_sp (s : State) (b : Bool) : (s.setVF b).sp = s.sp := rfl
@[simp] theorem State.setVF_stack (s : State) (b : Bool) : (s.setVF b).stack = s.stack := rfl
@[simp] theorem State.setVF_dt (s : State) (b : Bool) : (s.setVF b).dt = s.dt := rfl
@[simp] theorem State.setVF_st (s : State) (b : Bool) : (s.setVF b).st = s.st := rfl
@[simp] theorem State.setVF_mem (s : State) (b : Bool) : (s.setVF b).mem = s.mem := rfl
@[simp] theorem State.setVF_keys (s : State) (b : Bool) : (s.setVF b).keys = s.keys := rfl
@[simp] theorem State.setVF_disp (s : State) (b : Bool) : (s.setVF b).disp = s.disp := rfl
@[simp] theorem State.setVF_latch (s : State) (b : Bool) : (s.setVF b).latch = s.latch := rfl
@[simp] theorem State.setVF_render (s : State) (b : Bool) : (s.setVF b).render = s.render := rfl
@[simp] theorem State.setVF_fault (s : State) (b : Bool) : (s.setVF b).fault = s.fault := rfl
@[simp] theorem State.setVF_reports (s : State) (b : Bool) : (s.setVF b).reports = s.reports := rfl
@[simp] theorem State.setVF_randomInput (s : State) (b : Bool) : (s.setVF b).randomInput = s.randomInput := rfl
@[simp] theorem State.setVF_drawCount (s : State) (b : Bool) : (s.setVF b).drawCount = s.drawCount := rfl

@[simp] theorem State.setResultThenFlag_i (s : State) (x : Nibble) (a : Byte) (b : Bool) : (s.setResultThenFlag x a b).i = s.i := rfl
@[simp] theorem State.setResultThenFlag_pc (s : State) (x : Nibble) (a : Byte) (b : Bool) : (s.setResultThenFlag x a b).pc = s.pc := rfl
@[simp] theorem State.setResultThenFlag_sp (s : State) (x : Nibble) (a : Byte) (b : Bool) : (s.setResultThenFlag x a b).sp = s.sp := rfl
@[simp] theorem State.setResultThenFlag_stack (s : State) (x : Nibble) (a : Byte) (b : Bool) : (s.setResultThenFlag x a b).stack = s.stack := rfl
@[simp] theorem State.setResultThenFlag_dt (s : State) (x : Nibble) (a : Byte) (b : Bool) : (s.setResultThenFlag x a b).dt = s.dt := rfl
@[simp] theorem State.setResultThenFlag_st (s : State) (x : Nibble) (a : Byte) (b : Bool) : (s.setResultThenFlag x a b).st = s.st := rfl
@[simp] theorem State.setResultThenFlag_mem (s : State) (x : Nibble) (a : Byte) (b : Bool) : (s.setResultThenFlag x a b).mem = s.mem := rfl
@[simp] theorem State.setResultThenFlag_keys (s : State) (x : Nibble) (a : Byte) (b : Bool) : (s.setResultThenFlag x a b).keys = s.keys := rfl
@[simp] theorem State.setResultThenFlag_disp (s : State) (x : Nibble) (a : Byte) (b : Bool) : (s.setResultThenFlag x a b).disp = s.disp := rfl
@[simp] theorem State.setResultThenFlag_latch (s : State) (x : Nibble) (a : Byte) (b : Bool) : (s.setResultThenFlag x a b).latch = s.latch := rfl
@[simp] theorem State.setResultThenFlag_render (s : State) (x : Nibble) (a : Byte) (b : Bool) : (s.setResultThenFlag x a b).render = s.render := rfl
@[simp] theorem State.setResultThenFlag_fault (s : State) (x : Nibble) (a : Byte) (b : Bool) : (s.setResultThenFlag x a b).fault = s.fault := rfl
@[simp] theorem State.setResultThenFlag_reports (s : State) (x : Nibble) (a : Byte) (b : Bool) : (s.setResultThenFlag x a b).reports = s.reports := rfl
@[simp] theorem State.setResultThenFlag_randomInput (s : State) (x : Nibble) (a : Byte) (b : Bool) : (s.setResultThenFlag x a b).randomInput = s.randomInput := rfl
@[simp] theorem State.setResultThenFlag_drawCount (s : State) (x : Nibble) (a : Byte) (b : Bool) : (s.setResultThenFlag x a b).drawCount = s.drawCount := rfl

@[simp] theorem State.skipIf_v (s : State) (b : Bool) : (s.skipIf b).v = s.v := rfl
@[simp] theorem State.skipIf_i (s : State) (b : Bool) : (s.skipIf b).i = s.i := rfl
@[simp] theorem State.skipIf_pc (s : State) (b : Bool) : (s.skipIf b).pc = s.pc + (if b then 4#16 else 2#16) := rfl
@[simp] theorem State.skipIf_sp (s : State) (b : Bool) : (s.skipIf b).sp = s.sp := rfl
@[simp] theorem State.skipIf_stack (s : State) (b : Bool) : (s.skipIf b).stack = s.stack := rfl
@[simp] theorem State.skipIf_dt (s : State) (b : Bool) : (s.skipIf b).dt = s.dt := rfl
@[simp] theorem State.skipIf_st (s : State) (b : Bool) : (s.skipIf b).st = s.st := rfl
@[simp] theorem State.skipIf_mem (s : State) (b : Bool) : (s.skipIf b).mem = s.mem := rfl
@[simp] theorem State.skipIf_keys (s : State) (b : Bool) : (s.skipIf b).keys = s.keys := rfl
@[simp] theorem State.skipIf_disp (s : State) (b : Bool) : (s.skipIf b).disp = s.disp := rfl
@[simp] theorem State.skipIf_latch (s : State) (b : Bool) : (s.skipIf b).latch = s.latch := rfl
@[simp] theorem State.skipIf_render (s : State) (b : Bool) : (s.skipIf b).render = s.render := rfl
@[simp] theorem State.skipIf_fault (s : State) (b : Bool) : (s.skipIf b).fault = s.fault := rfl
@[simp] theorem State.skipIf_reports (s : State) (b : Bool) : (s.skipIf b).reports = s.reports := rfl
@[simp] theorem State.skipIf_randomInput (s : State) (b : Bool) : (s.skipIf b).randomInput = s.randomInput := rfl
@[simp] theorem State.skipIf_drawCount (s : State) (b : Bool) : (s.skipIf b).drawCount = s.drawCount := rfl

@[simp] theorem State.beginStep_v (s : State) : s.beginStep.v = s.v := rfl
@[simp] theorem State.beginStep_i (s : State) : s.beginStep.i = s.i := rfl
@[simp] theorem State.beginStep_pc (s : State) : s.beginStep.pc = s.pc := rfl
@[simp] theorem State.beginStep_sp (s : State) : s.beginStep.sp = s.sp := rfl
@[simp] theorem State.beginStep_stack (s : State) : s.beginStep.stack = s.stack := rfl
@[simp] theorem State.beginStep_dt (s : State) : s.beginStep.dt = tick s.dt := rfl
@[simp] theorem State.beginStep_st (s : State) : s.beginStep.st = tick s.st := rfl
@[simp] theorem State.beginStep_mem (s : State) : s.beginStep.mem = s.mem := rfl
@[simp] theorem State.beginStep_keys (s : State) : s.beginStep.keys = s.keys := rfl
@[simp] theorem State.beginStep_disp (s : State) : s.beginStep.disp = s.disp := rfl
@[simp] theorem State.beginStep_latch (s : State) : s.beginStep.latch = s.latch := rfl
@[simp] theorem State.beginStep_render (s : State) : s.beginStep.render = false := rfl
@[simp] theorem State.beginStep_fault (s : State) : s.beginStep.fault = s.fault := rfl
@[simp] theorem State.beginStep_reports (s : State) : s.beginStep.reports = s.reports := rfl
@[simp] theorem State.beginStep_randomInput (s : State) : s.beginStep.randomInput = s.randomInput := rfl
@[simp] theorem State.beginStep_drawCount (s : State) : s.beginStep.drawCount = s.drawCount := rfl

end Sys2Proof.Machine
end

