-- ==== Sys2Proof/Laws/Registers.lean ====
section
/-! SUPPORT. Reading V, the stack and the keys after an update, and the frame of the random draw. -/

namespace Sys2Proof.Machine

theorem State.reg_congr {s t : State} (h : t.v = s.v) (r : Nibble) : t.reg r = s.reg r := by
  simp only [State.reg, h]

theorem State.stackAt_congr {s t : State} (h : t.stack = s.stack) (j : Nibble) : t.stackAt j = s.stackAt j := by
  simp only [State.stackAt, h]

theorem State.key_congr {s t : State} (h : t.keys = s.keys) (j : Nibble) : t.key j = s.key j := by
  simp only [State.key, h]

/-- Read after write in the register file (R10). -/
theorem State.reg_setReg (s : State) (r q : Nibble) (b : Byte) : (s.setReg r b).reg q = if q = r then b else s.reg q := by
  simp [State.setReg, State.reg, Vector.getElem_set, BitVec.toNat_inj, eq_comm]

@[simp] theorem State.reg_setReg_self (s : State) (r : Nibble) (b : Byte) : (s.setReg r b).reg r = b := by
  simp [State.reg_setReg]

theorem State.reg_setVF (s : State) (q : Nibble) (b : Bool) :
    (s.setVF b).reg q = if q = vfIndex then flagByte b else s.reg q := State.reg_setReg ..

/-- The flag is written last, so VF holds it whatever `x` is (R11). -/
theorem State.reg_setResultThenFlag (s : State) (x q : Nibble) (a : Byte) (b : Bool) :
    (s.setResultThenFlag x a b).reg q = if q = vfIndex then flagByte b else if q = x then a else s.reg q := by
  simp only [State.setResultThenFlag, State.reg_setVF, State.reg_setReg]

@[simp] theorem State.reg_advance (s : State) (k : Word) (q : Nibble) : (s.advance k).reg q = s.reg q := rfl
@[simp] theorem State.reg_setI (s : State) (w : Word) (q : Nibble) : (s.setI w).reg q = s.reg q := rfl
@[simp] theorem State.reg_setPc (s : State) (w : Word) (q : Nibble) : (s.setPc w).reg q = s.reg q := rfl
@[simp] theorem State.reg_setMem (s : State) (m : Memory) (q : Nibble) : (s.setMem m).reg q = s.reg q := rfl
@[simp] theorem State.reg_setDisp (s : State) (d : Display) (q : Nibble) : (s.setDisp d).reg q = s.reg q := rfl
@[simp] theorem State.reg_setRender (s : State) (b : Bool) (q : Nibble) : (s.setRender b).reg q = s.reg q := rfl
@[simp] theorem State.reg_setLatch (s : State) (l : Latch) (q : Nibble) : (s.setLatch l).reg q = s.reg q := rfl
@[simp] theorem State.reg_beginStep (s : State) (q : Nibble) : s.beginStep.reg q = s.reg q := rfl
@[simp] theorem State.reg_skipIf (s : State) (b : Bool) (q : Nibble) : (s.skipIf b).reg q = s.reg q := rfl
@[simp] theorem State.stackAt_beginStep (s : State) (j : Nibble) : s.beginStep.stackAt j = s.stackAt j := rfl
@[simp] theorem State.key_beginStep (s : State) (j : Nibble) : s.beginStep.key j = s.key j := rfl
@[simp] theorem State.dataAddr_beginStep (s : State) (j : Nat) : s.beginStep.dataAddr j = s.dataAddr j := rfl

/-- The cell `SP + 1` is written and no other (R103). -/
theorem State.stackAt_push (s : State) (w : Word) (j : Nibble) :
    (s.push w).stackAt j = if j = s.sp + 1#4 then w else s.stackAt j := by
  by_cases h : j = s.sp + 1#4
  · subst h; simp [State.push, State.stackAt]
  · have h' : (s.sp + 1#4).toNat ≠ j.toNat := fun e => h (BitVec.eq_of_toNat_eq e.symm)
    simp only [State.push, State.stackAt, Vector.getElem_set, if_neg h', if_neg h]

/-- Read after write in the key flags (R161, R163). -/
theorem State.key_setKey (s : State) (j q : Nibble) (b : Bool) : (s.setKey j b).key q = if q = j then b else s.key q := by
  simp [State.setKey, State.key, Vector.getElem_set, BitVec.toNat_inj, eq_comm]

/-- A draw touches only the two fields it is taken from (R127). -/
theorem State.afterDraw_eq (s : State) :
    s.afterDraw = { s with randomInput := s.afterDraw.randomInput, drawCount := s.afterDraw.drawCount } := by
  unfold State.afterDraw; split <;> rfl

/-- A supplied byte is the one drawn (R127). -/
theorem State.nextRandom_cons (s : State) (b : Byte) (bs : List Byte) (h : s.randomInput = b :: bs) :
    s.nextRandom = b ∧ s.afterDraw = { s with randomInput := bs } := by
  simp [State.nextRandom, State.afterDraw, h]

/-- The registers after loading `n` bytes: the first `n` hold memory, the others are kept (R145). -/
theorem State.reg_loadRegs (s : State) (base n : Nat) (hn : n ≤ 16) (r : Nibble) :
    (s.loadRegs base n).reg r = if r.toNat < n then s.mem.read (base + r.toNat) else s.reg r := by
  induction n with
  | zero => simp [State.loadRegs]
  | succ n ih =>
    have hr : r = regOfNat n ↔ r.toNat = n := by
      rw [← BitVec.toNat_inj, regOfNat, BitVec.toNat_ofNat, Nat.mod_eq_of_lt (by omega)]
    simp only [State.loadRegs, State.reg_setReg, hr, ih (by omega)]
    split
    · rename_i h; rw [if_pos (by omega), h]
    · split <;> rename_i h1 h2
      · rw [if_pos (by omega)]
      · rw [if_neg (by omega)]

/-- Loading registers touches only V (R145). -/
theorem State.loadRegs_eq (s : State) (base n : Nat) : s.loadRegs base n = { s with v := (s.loadRegs base n).v } := by
  induction n with
  | zero => rfl
  | succ n ih => rw [State.loadRegs, ih]; rfl

end Sys2Proof.Machine
end

