-- ==== Sys2Proof/Laws/Step.lean ====
section
/-! SUPPORT. What a step, a checked access and the host's operations can do, said once. -/

namespace Sys2Proof.Machine

@[simp] theorem State.raise_eq (s : State) (c : StickyCause) : s.raise c = .next { s with fault := some c } := rfl

/-- A checked access either raises the data fault and changes nothing else, or goes on (R47, R202). -/
theorem State.checkData_cases (s : State) (top : Nat) (k : Result) :
    (0xFFF < top ∧ s.checkData top k = .next { s with fault := some (.dataAddressOutOfRange top) }) ∨
      (top ≤ 0xFFF ∧ s.checkData top k = k) := by
  unfold State.checkData
  split
  · rename_i h; exact .inl ⟨h, rfl⟩
  · rename_i h; exact .inr ⟨Nat.not_lt.mp h, rfl⟩

theorem State.checkData_above (s : State) {top : Nat} (k : Result) (h : 0xFFF < top) :
    s.checkData top k = .next { s with fault := some (.dataAddressOutOfRange top) } :=
  ((s.checkData_cases top k).resolve_right fun e => by omega).2

theorem State.checkData_within (s : State) {top : Nat} (k : Result) (h : top ≤ 0xFFF) : s.checkData top k = k :=
  ((s.checkData_cases top k).resolve_left fun e => by omega).2

theorem State.dataAddr_eq (s : State) (j : Nat) : s.dataAddr j = s.i.toNat + j := rfl

/-- A timer's decrement on numbers (R82). -/
theorem tick_toNat (t : Byte) : (tick t).toNat = t.toNat - 1 := by
  unfold tick
  split
  · rename_i h; simp [h]
  · rename_i h
    have : t.toNat ≠ 0 := fun e => h (BitVec.eq_of_toNat_eq (by simpa using e))
    have := t.isLt
    rw [BitVec.toNat_sub]; simp only [BitVec.toNat_ofNat]; omega

theorem tick_eq (t : Byte) : tick t = BitVec.ofNat 8 (t.toNat - 1) := by
  apply BitVec.eq_of_toNat_eq
  have := t.isLt
  rw [tick_toNat, BitVec.toNat_ofNat]; omega

@[simp] theorem State.fetchWord_beginStep (s : State) : s.beginStep.fetchWord = s.fetchWord := rfl
@[simp] theorem State.canFetch_beginStep (s : State) : s.beginStep.canFetch = s.canFetch := rfl
@[simp] theorem State.fetchDecode_beginStep (s : State) : s.beginStep.fetchDecode = s.fetchDecode := rfl

theorem State.awaitingKey_iff (s : State) : s.awaitingKey = true ↔ ∃ r, s.latch = .awaitingKey r := by
  unfold State.awaitingKey; cases s.latch <;> simp

theorem State.ignoresStep_iff (s : State) : s.ignoresStep = true ↔ s.fault ≠ none ∨ ∃ r, s.latch = .awaitingKey r := by
  rw [State.ignoresStep, Bool.or_eq_true, State.awaitingKey_iff, Option.isSome_iff_ne_none]

theorem State.canFetch_iff (s : State) : s.canFetch = true ↔ s.pc.toNat < 0xFFF := by
  simp [State.canFetch]

/-- Fetch and decode, written out. -/
theorem State.fetchDecode_eq (s : State) :
    s.fetchDecode =
      if s.canFetch then
        match decodeWord s.fetchWord with
        | some i => .instr i
        | none => .invalid s.fetchWord
      else .outOfRange s.pc := rfl

/-- The step, written out (R87). -/
theorem step_eq (s : State) :
    step s =
      if s.ignoresStep then .next s
      else
        match s.beginStep.commitPending with
        | some t => .next t
        | none =>
          match s.beginStep.fetchDecode with
          | .outOfRange pc => s.beginStep.raise (.fetchAddressOutOfRange pc)
          | .invalid w => .next (s.beginStep.reportInvalid w)
          | .instr i => exec i s.beginStep := rfl

/-- What fetch and decode find, in the order of the checks (R207). -/
theorem State.fetchDecode_cases (s : State) :
    (0xFFF ≤ s.pc.toNat ∧ s.fetchDecode = .outOfRange s.pc) ∨
    (s.pc.toNat < 0xFFF ∧ decodeWord s.fetchWord = none ∧ s.fetchDecode = .invalid s.fetchWord) ∨
    (∃ i, s.pc.toNat < 0xFFF ∧ decodeWord s.fetchWord = some i ∧ s.fetchDecode = .instr i) := by
  rw [State.fetchDecode_eq]
  by_cases h : s.canFetch = true
  · rw [if_pos h]
    have h' := s.canFetch_iff.mp h
    cases hd : decodeWord s.fetchWord with
    | none => exact .inr (.inl ⟨h', rfl, rfl⟩)
    | some i => exact .inr (.inr ⟨i, h', rfl, rfl⟩)
  · rw [if_neg h]
    exact .inl ⟨Nat.not_lt.mp fun e => h (s.canFetch_iff.mpr e), rfl⟩

/-- Everything a step can do: it is ignored, commits a key, faults on its fetch, reports an invalid word, or executes (R87, R207). -/
theorem step_cases (s : State) :
    ((s.fault ≠ none ∨ ∃ r, s.latch = .awaitingKey r) ∧ step s = .next s) ∨
    (s.fault = none ∧ ∃ r k, s.latch = .pending r k ∧
      step s = .next ((s.beginStep.setReg r (k.setWidth 8)).setLatch .running)) ∨
    (s.fault = none ∧ s.latch = .running ∧ 0xFFF ≤ s.pc.toNat ∧
      step s = .next { s.beginStep with fault := some (.fetchAddressOutOfRange s.pc) }) ∨
    (s.fault = none ∧ s.latch = .running ∧ s.pc.toNat < 0xFFF ∧ decodeWord s.fetchWord = none ∧
      step s = .next (s.beginStep.reportInvalid s.fetchWord)) ∨
    (s.fault = none ∧ s.latch = .running ∧ s.pc.toNat < 0xFFF ∧ ∃ i, decodeWord s.fetchWord = some i ∧
      step s = exec i s.beginStep) := by
  rw [step_eq]
  by_cases hi : s.ignoresStep = true
  · rw [if_pos hi]; exact .inl ⟨s.ignoresStep_iff.mp hi, rfl⟩
  · rw [if_neg hi]
    rw [s.ignoresStep_iff, not_or, not_not] at hi
    obtain ⟨hf, hl⟩ := hi
    right
    rcases h : s.latch with _ | r | ⟨r, k⟩
    case awaitingKey => exact absurd ⟨r, h⟩ hl
    case pending =>
      refine .inl ⟨hf, r, k, rfl, ?_⟩
      simp [State.commitPending, h]
    case running =>
      right
      have hc : s.beginStep.commitPending = none := by simp [State.commitPending, h]
      simp only [hc, State.fetchDecode_beginStep]
      rcases s.fetchDecode_cases with ⟨hp, hd⟩ | ⟨hp, hn, hd⟩ | ⟨i, hp, hn, hd⟩
      · exact .inl ⟨hf, trivial, hp, by rw [hd]; rfl⟩
      · exact .inr (.inl ⟨hf, trivial, hp, hn, by rw [hd]⟩)
      · exact .inr (.inr ⟨hf, trivial, hp, i, hn, by rw [hd]⟩)

@[simp] theorem HostOp.apply_step (s : State) : HostOp.step.apply s = Sys2Proof.Machine.step s := rfl
@[simp] theorem HostOp.apply_keyPress (k : Nibble) (s : State) : (HostOp.keyPress k).apply s = .next (s.keyPress k) := rfl
@[simp] theorem HostOp.apply_keyRelease (k : Nibble) (s : State) : (HostOp.keyRelease k).apply s = .next (s.keyRelease k) := rfl
@[simp] theorem HostOp.apply_read (s : State) : HostOp.read.apply s = .next s := rfl

/-- A run is the first operation followed by the rest. -/
theorem runOps_cons (op : HostOp) (ops : List HostOp) (s t : State) (h : op.apply s = .next t) :
    runOps (op :: ops) s = runOps ops t := by
  rw [HostOp.apply] at h
  rw [runOps, runOpsBy, h]; rfl

@[simp] theorem runOps_nil (s : State) : runOps [] s = .next s := rfl

/-! ### The parameters of R7 -/

/-- Under the spec's policy every key index is taken, by its low nibble (R153, R154, D13). -/
@[simp] theorem checkKeyIndex_mask (b : Byte) (k : Nibble → Result) : checkKeyIndex .mask b k = k (keyIndex b) := rfl

/-- Under `refuse` a value above 15 stops and any other is taken (D13). -/
theorem checkKeyIndex_refuse (b : Byte) (k : Nibble → Result) :
    checkKeyIndex .refuse b k = if 15 < b.toNat then .refused .keyIndexAbove15 else k (keyIndex b) := rfl

theorem execSkp_eq (x : Nibble) (s : State) : execSkp x s = .next (s.skipIf (s.key (keyIndex (s.reg x)))) := rfl
theorem execSknp_eq (x : Nibble) (s : State) : execSknp x s = .next (s.skipIf (!s.key (keyIndex (s.reg x)))) := rfl

theorem execWith_skp (policy : Config.KeyIndexPolicy) (x : Nibble) (s : State) :
    execWith policy (.skp x) s = checkKeyIndex policy (s.reg x) fun j => .next (s.skipIf (s.key j)) := rfl
theorem execWith_sknp (policy : Config.KeyIndexPolicy) (x : Nibble) (s : State) :
    execWith policy (.sknp x) s = checkKeyIndex policy (s.reg x) fun j => .next (s.skipIf (!s.key j)) := rfl

/-- With the spec's policy the parametrised dispatch is the dispatch. -/
@[simp] theorem execWith_mask (i : Instr) (s : State) : execWith .mask i s = exec i s := by cases i <;> rfl

/-- With the spec's values the parametrised machine is the machine (R7). -/
@[simp] theorem stepWith_params (s : State) : stepWith Config.params s = step s := by
  have h : execWith Config.params.keyIndexPolicy = exec := funext fun i => funext fun s => execWith_mask i s
  unfold stepWith step
  rw [h]; rfl

end Sys2Proof.Machine
end

