-- ==== Sys2Proof/Laws/Exec.lean ====
section
/-! SUPPORT. Per shared shape of a meaning: what `exec` answers, said once, and which instructions latch a fault. -/

namespace Sys2Proof.Machine

@[simp] theorem State.key_advance (s : State) (k : Word) (q : Nibble) : (s.advance k).key q = s.key q := rfl
@[simp] theorem State.key_setLatch (s : State) (l : Latch) (q : Nibble) : (s.setLatch l).key q = s.key q := rfl

/-- A draw whose addresses are in range completes (R155, R171, R177). -/
theorem exec_drw_within (x y n : Nibble) (s : State) (h : n = 0#4 ∨ s.dataAddr (n.toNat - 1) ≤ 0xFFF) :
    exec (.drw x y n) s = .next (s.drawSprite x y n) := by
  simp only [exec, execDrw]
  split
  · rfl
  · rename_i hn; exact State.checkData_within _ _ (h.resolve_left hn)

/-- An instruction leaves the fault latch alone, or it is one of the six that can raise a cause and nothing but the latch changes (R202 to
R206). -/
theorem exec_fault_cases (i : Instr) (s t : State) (h : exec i s = .next t) :
    t.fault = s.fault ∨
      ∃ c, t = { s with fault := some c } ∧
        ((∃ nnn, i = .call nnn ∧ s.sp = 15#4 ∧ c = .stackOverflow s.pc) ∨
         (i = .ret ∧ s.sp = 0#4 ∧ c = .stackUnderflow s.pc) ∨
         (∃ x, i = .ldB x ∧ 0xFFF < s.dataAddr 2 ∧ c = .dataAddressOutOfRange (s.dataAddr 2)) ∨
         (∃ x, (i = .ldMemVx x ∨ i = .ldVxMem x) ∧ 0xFFF < s.dataAddr x.toNat ∧ c = .dataAddressOutOfRange (s.dataAddr x.toNat)) ∨
         (∃ x y n, i = .drw x y n ∧ n ≠ 0#4 ∧ 0xFFF < s.dataAddr (n.toNat - 1) ∧
            c = .dataAddressOutOfRange (s.dataAddr (n.toNat - 1)))) := by
  cases i
  case ret => simp only [exec, execRet] at h; split at h <;> cases h <;> simp_all
  case call => simp only [exec, execCall] at h; split at h <;> cases h <;> simp_all
  case drw =>
    simp only [exec, execDrw, State.checkData] at h
    split at h
    · cases h; simp [State.drawSprite]
    · split at h <;> cases h <;> simp_all [State.drawSprite]
  case ldB => simp only [exec, execLdB, State.checkData] at h; split at h <;> cases h <;> simp_all
  case ldMemVx => simp only [exec, execLdMemVx, State.checkData] at h; split at h <;> cases h <;> simp_all
  case ldVxMem =>
    simp only [exec, execLdVxMem, State.checkData] at h
    split at h <;> cases h
    · simp_all
    · rw [State.loadRegs_eq]; simp
  case rnd => cases h; rw [State.afterDraw_eq]; simp
  all_goals cases h; simp

end Sys2Proof.Machine
end

