-- ==== Sys2Proof/Machine/Listing.lean ====
section
/-! DEFINITION. How the spec's listings spell an instruction, and which word they stand for (30_encoding.md R74, R75, and the mnemonic column of
R66). No step reads any of it. The spellings CH8 does not print are PRESUMED by the spec (D31), log 36. -/

namespace Sys2Proof

/-! ### Operands -/

/-- One hexadecimal digit. -/
def hexDigit (n : Nibble) : String :=
  ["0", "1", "2", "3", "4", "5", "6", "7", "8", "9", "A", "B", "C", "D", "E", "F"].getD n.toNat ""

/-- `Vx`: `V0` to `VF` (R74). -/
def regText (x : Nibble) : String := "V" ++ hexDigit x

/-- `nibble`, hexadecimal with `0x` (R74). -/
def nibbleText (n : Nibble) : String := "0x" ++ hexDigit n

/-- `byte`, two hexadecimal digits with `0x` (R74). -/
def byteText (b : Byte) : String := "0x" ++ hexDigit (b.extractLsb' 4 4) ++ hexDigit (b.extractLsb' 0 4)

/-- `addr`, three hexadecimal digits with `0x` (R74). -/
def addrText (a : Addr) : String :=
  "0x" ++ hexDigit (a.extractLsb' 8 4) ++ hexDigit (a.extractLsb' 4 4) ++ hexDigit (a.extractLsb' 0 4)

/-- A mnemonic and its operands, separated by commas (R74). -/
def operation (name : String) (operands : List String) : String := name ++ " " ++ ", ".intercalate operands

/-! ### Instructions -/

/-- The listing of an instruction (R66, R74). In Bnnn the operand is written `V0` although the register used is `V[x]`, `x = nnn[11:8]` (R104;
`execJpV0`), and SHR and SHL show no `y`, which the hardware ignores (R123, R125; `execShr`, `execShl`). -/
def Instr.listing : Instr → String
  | .cls => "CLS"
  | .ret => "RET"
  | .jp nnn => operation "JP" [addrText nnn]
  | .call nnn => operation "CALL" [addrText nnn]
  | .seImm x kk => operation "SE" [regText x, byteText kk]
  | .sneImm x kk => operation "SNE" [regText x, byteText kk]
  | .seReg x y => operation "SE" [regText x, regText y]
  | .ldImm x kk => operation "LD" [regText x, byteText kk]
  | .addImm x kk => operation "ADD" [regText x, byteText kk]
  | .ldReg x y => operation "LD" [regText x, regText y]
  | .orReg x y => operation "OR" [regText x, regText y]
  | .andReg x y => operation "AND" [regText x, regText y]
  | .xorReg x y => operation "XOR" [regText x, regText y]
  | .addReg x y => operation "ADD" [regText x, regText y]
  | .subReg x y => operation "SUB" [regText x, regText y]
  | .shr x _ => operation "SHR" [regText x]
  | .subnReg x y => operation "SUBN" [regText x, regText y]
  | .shl x _ => operation "SHL" [regText x]
  | .sneReg x y => operation "SNE" [regText x, regText y]
  | .ldI nnn => operation "LD" ["I", addrText nnn]
  | .jpV0 _ nnn => operation "JP" ["V0", addrText nnn]
  | .rnd x kk => operation "RND" [regText x, byteText kk]
  | .drw x y n => operation "DRW" [regText x, regText y, nibbleText n]
  | .skp x => operation "SKP" [regText x]
  | .sknp x => operation "SKNP" [regText x]
  | .ldVxDt x => operation "LD" [regText x, "DT"]
  | .ldVxK x => operation "LD" [regText x, "K"]
  | .ldDtVx x => operation "LD" ["DT", regText x]
  | .ldStVx x => operation "LD" ["ST", regText x]
  | .addI x => operation "ADD" ["I", regText x]
  | .ldF x => operation "LD" ["F", regText x]
  | .ldB x => operation "LD" ["B", regText x]
  | .ldMemVx x => operation "LD" ["[I]", regText x]
  | .ldVxMem x => operation "LD" [regText x, "[I]"]

/-- The instruction a listing stands for: SHR and SHL have `y = 0` there (R74). -/
def Instr.asListed : Instr → Instr
  | .shr x _ => .shr x 0#4
  | .shl x _ => .shl x 0#4
  | .cls => .cls
  | .ret => .ret
  | .jp nnn => .jp nnn
  | .call nnn => .call nnn
  | .seImm x kk => .seImm x kk
  | .sneImm x kk => .sneImm x kk
  | .seReg x y => .seReg x y
  | .ldImm x kk => .ldImm x kk
  | .addImm x kk => .addImm x kk
  | .ldReg x y => .ldReg x y
  | .orReg x y => .orReg x y
  | .andReg x y => .andReg x y
  | .xorReg x y => .xorReg x y
  | .addReg x y => .addReg x y
  | .subReg x y => .subReg x y
  | .subnReg x y => .subnReg x y
  | .sneReg x y => .sneReg x y
  | .ldI nnn => .ldI nnn
  | .jpV0 x nnn => .jpV0 x nnn
  | .rnd x kk => .rnd x kk
  | .drw x y n => .drw x y n
  | .skp x => .skp x
  | .sknp x => .sknp x
  | .ldVxDt x => .ldVxDt x
  | .ldVxK x => .ldVxK x
  | .ldDtVx x => .ldDtVx x
  | .ldStVx x => .ldStVx x
  | .addI x => .addI x
  | .ldF x => .ldF x
  | .ldB x => .ldB x
  | .ldMemVx x => .ldMemVx x
  | .ldVxMem x => .ldVxMem x

/-! ### Data -/

/-- A data byte in a listing (R75). -/
def dataByteText (b : Byte) : String := operation "DB" [byteText b]

/-- A data word in a listing (R75). -/
def dataWordText (w : Word) : String := operation "DW" [byteText (highByte w) ++ hexDigit (fieldY w) ++ hexDigit (fieldN w)]

/-- The listing of a word: its instruction, or data where it has none (R74, R75). -/
def wordText (w : Word) : String :=
  match decodeWord w with
  | some i => i.listing
  | none => dataWordText w

end Sys2Proof
end

