-- ==== Sys2Proof/Laws/Listing.lean ====
section
/-! SUPPORT. What the listings leave out has no effect on the hardware (30_encoding.md R74). -/

namespace Sys2Proof.Machine

/-- An instruction and the one its listing stands for do the same in every state: SHR and SHL ignore `y` (R74, R123, R125). -/
theorem exec_asListed (i : Instr) (s : State) : exec i.asListed s = exec i s := by cases i <;> rfl

/-- They are written the same (R74). -/
theorem listing_asListed (i : Instr) : i.asListed.listing = i.listing := by cases i <;> rfl

/-- A listing's SHR and SHL are encoded with the `y` field 0 (R74). -/
theorem fieldY_encode_asListed_shift (x y : Nibble) :
    fieldY (encode (Instr.shr x y).asListed) = 0#4 ∧ fieldY (encode (Instr.shl x y).asListed) = 0#4 := by
  simp [Instr.asListed, encode]

/-- The listing of Bnnn names `V0` whatever register `x` selects, and the register added is `V[x]` (R74, R104). -/
theorem exec_jpV0_uses_vx (x : Nibble) (nnn : Addr) (s : State) :
    (Instr.jpV0 x nnn).listing = operation "JP" ["V0", addrText nnn] ∧
      exec (.jpV0 x nnn) s = .next (s.setPc (zextAddr nnn + zextByte (s.reg x))) := ⟨rfl, rfl⟩

end Sys2Proof.Machine
end

