-- ==== Sys2Proof/Laws/Memory.lean ====
section
/-! SUPPORT. The laws of memory: read after write, frame, and that every operation keeps the canonical form. -/

namespace Sys2Proof.Machine

theorem Memory.read_erase_self (m : Memory) (a : Nat) : (m.erase a).read a = resetByte a := by
  induction m with
  | nil => rfl
  | cons c m ih =>
    by_cases h : c.1 = a
    · simpa [Memory.erase, h] using ih
    · simpa [Memory.erase, h, Memory.read] using ih

theorem Memory.read_erase_ne (m : Memory) {a b : Nat} (h : b ≠ a) : (m.erase a).read b = m.read b := by
  induction m with
  | nil => rfl
  | cons c m ih =>
    by_cases hc : c.1 = a
    · have hb : ¬ c.1 = b := fun e => h (e.symm.trans hc)
      simp only [Memory.read, if_neg hb, ← ih]
      simp [Memory.erase, hc]
    · rw [show Memory.erase (c :: m) a = c :: Memory.erase m a by simp [Memory.erase, hc]]
      simp only [Memory.read, ih]

theorem Memory.read_insert_ne (m : Memory) {a b : Nat} (v : Byte) (h : b ≠ a) : (m.insert a v).read b = m.read b := by
  induction m with
  | nil => simp [Memory.insert, Memory.read, Ne.symm h]
  | cons c m ih =>
    unfold Memory.insert
    split
    · simp [Memory.read, Ne.symm h]
    · simp only [Memory.read, ih]

theorem Memory.read_insert_self (m : Memory) (a : Nat) (v : Byte) (h : ∀ c ∈ m, c.1 ≠ a) : (m.insert a v).read a = v := by
  induction m with
  | nil => simp [Memory.insert, Memory.read]
  | cons c m ih =>
    unfold Memory.insert
    split
    · simp [Memory.read]
    · simp only [Memory.read, if_neg (h c (by simp))]
      exact ih fun d hd => h d (by simp [hd])

theorem Memory.erase_no_entry (m : Memory) (a : Nat) : ∀ c ∈ m.erase a, c.1 ≠ a := by
  intro c hc; simpa [Memory.erase] using (List.mem_filter.mp hc).2

/-- A read returns the last value written to the cell, and a write leaves every other cell alone (R46, R49). -/
theorem Memory.read_write (m : Memory) (a b : Nat) (v : Byte) (ha : a < Config.memSize) :
    (m.write a v).read b = if b = a then v else m.read b := by
  rw [Memory.write, if_pos ha]
  split <;> rename_i hv
  · split <;> rename_i hb
    · rw [hb, Memory.read_erase_self, hv]
    · exact Memory.read_erase_ne m hb
  · split <;> rename_i hb
    · rw [hb]; exact Memory.read_insert_self _ _ _ (Memory.erase_no_entry m a)
    · rw [Memory.read_insert_ne _ _ hb, Memory.read_erase_ne m hb]

/-- A write touches no other cell, in range or not. -/
theorem Memory.read_write_ne (m : Memory) {a b : Nat} (v : Byte) (h : b ≠ a) : (m.write a v).read b = m.read b := by
  by_cases ha : a < Config.memSize
  · rw [Memory.read_write m a b v ha, if_neg h]
  · rw [Memory.write, if_neg ha]

/-- Bytes outside a block of consecutive writes are kept (R44). -/
theorem Memory.read_writeBytes_outside (bs : List Byte) (m : Memory) (a b : Nat) (h : b < a ∨ a + bs.length ≤ b) :
    (m.writeBytes a bs).read b = m.read b := by
  induction bs generalizing m a with
  | nil => rfl
  | cons v bs ih =>
    rw [List.length_cons] at h
    rw [Memory.writeBytes, ih _ _ (by omega), Memory.read_write_ne _ _ (by omega)]

/-- Bytes inside a block of consecutive writes are the written ones (R44). -/
theorem Memory.read_writeBytes_inside (bs : List Byte) (m : Memory) (a j : Nat) (hj : j < bs.length)
    (ha : a + bs.length ≤ Config.memSize) : (m.writeBytes a bs).read (a + j) = bs[j] := by
  induction bs generalizing m a j with
  | nil => simp at hj
  | cons v bs ih =>
    rw [List.length_cons] at hj ha
    rw [Memory.writeBytes]
    cases j with
    | zero => rw [Memory.read_writeBytes_outside _ _ _ _ (by omega), Memory.read_write _ _ _ _ (by omega)]; simp
    | succ j =>
      rw [show a + (j + 1) = a + 1 + j by omega, ih _ _ j (by omega) (by omega)]
      simp

/-! ### The canonical form -/

theorem Memory.wf_nil : Memory.wf [] := ⟨List.Pairwise.nil, fun _ h => by cases h⟩

theorem Memory.erase_wf {m : Memory} (h : m.wf) (a : Nat) : (m.erase a).wf := by
  refine ⟨?_, fun c hc => h.2 c (List.mem_filter.mp hc).1⟩
  exact h.1.sublist (List.Sublist.map _ List.filter_sublist)

theorem Memory.mem_insert {m : Memory} {a : Nat} {v : Byte} {c : Host.Cell} (h : c ∈ m.insert a v) : c = (a, v) ∨ c ∈ m := by
  induction m with
  | nil => simpa [Memory.insert] using h
  | cons d m ih =>
    unfold Memory.insert at h
    split at h
    · simpa using h
    · rcases List.mem_cons.mp h with rfl | h
      · simp
      · rcases ih h with h | h <;> simp [h]

theorem Memory.insert_sorted {m : Memory} (a : Nat) (v : Byte) (hm : (m.map fun c => c.1).Pairwise (· < ·))
    (ha : ∀ c ∈ m, c.1 ≠ a) : ((m.insert a v).map fun c => c.1).Pairwise (· < ·) := by
  induction m with
  | nil => simp [Memory.insert]
  | cons d m ih =>
    rw [List.map_cons, List.pairwise_cons] at hm
    have hd : d.1 ≠ a := ha d (by simp)
    unfold Memory.insert
    split
    · rename_i hlt
      simp only [List.map_cons, List.pairwise_cons]
      refine ⟨?_, hm⟩
      intro k hk
      rcases List.mem_cons.mp hk with rfl | hk
      · exact hlt
      · exact lt_trans hlt (hm.1 k hk)
    · rename_i hlt
      simp only [List.map_cons, List.pairwise_cons]
      refine ⟨?_, ih hm.2 fun c hc => ha c (by simp [hc])⟩
      intro k hk
      obtain ⟨c, hc, rfl⟩ := List.mem_map.mp hk
      rcases Memory.mem_insert hc with rfl | hc
      · show d.1 < a; omega
      · exact hm.1 _ (List.mem_map_of_mem hc)

/-- A write keeps the canonical form. -/
theorem Memory.write_wf {m : Memory} (h : m.wf) (a : Nat) (v : Byte) : (m.write a v).wf := by
  unfold Memory.write
  split
  · rename_i ha
    split
    · exact Memory.erase_wf h a
    · rename_i hv
      refine ⟨Memory.insert_sorted a v (Memory.erase_wf h a).1 (Memory.erase_no_entry m a), ?_⟩
      intro c hc
      rcases Memory.mem_insert hc with rfl | hc
      · exact ⟨ha, hv⟩
      · exact (Memory.erase_wf h a).2 c hc
  · exact h

/-- Consecutive writes keep the canonical form. -/
theorem Memory.writeBytes_wf (bs : List Byte) {m : Memory} (h : m.wf) (a : Nat) : (m.writeBytes a bs).wf := by
  induction bs generalizing m a with
  | nil => exact h
  | cons v bs ih => exact ih (Memory.write_wf h a v) _

/-- In the canonical form nothing is listed beyond the last cell, so such an address reads as 0. -/
theorem Memory.read_above (m : Memory) (h : m.wf) (a : Nat) (ha : Config.memSize ≤ a) : m.read a = 0#8 := by
  obtain ⟨-, h⟩ := h
  induction m with
  | nil =>
    have hl : font.length = 80 := rfl
    exact List.getD_eq_default _ _ (hl ▸ le_trans (show 80 ≤ 4096 by omega) ha)
  | cons c m ih =>
    have := (h c (by simp)).1
    rw [Memory.read, if_neg (by omega)]
    exact ih fun d hd => h d (by simp [hd])

end Sys2Proof.Machine
end

