-- ==== Sys2Proof/Laws/PerInstr.lean ====
section
/-! SUPPORT. Per instruction: the word of an instruction selects the instruction's own row of the opcode map (R66). -/

namespace Sys2Proof.Laws.TablePattern

/-- The row of R66 that stands for an instruction. -/
def row : Instr → OpcodePattern
  | .cls => ⟨0xFFFF, 0x00E0⟩
  | .ret => ⟨0xFFFF, 0x00EE⟩
  | .jp _ => ⟨0xF000, 0x1000⟩
  | .call _ => ⟨0xF000, 0x2000⟩
  | .seImm _ _ => ⟨0xF000, 0x3000⟩
  | .sneImm _ _ => ⟨0xF000, 0x4000⟩
  | .seReg _ _ => ⟨0xF00F, 0x5000⟩
  | .ldImm _ _ => ⟨0xF000, 0x6000⟩
  | .addImm _ _ => ⟨0xF000, 0x7000⟩
  | .ldReg _ _ => ⟨0xF00F, 0x8000⟩
  | .orReg _ _ => ⟨0xF00F, 0x8001⟩
  | .andReg _ _ => ⟨0xF00F, 0x8002⟩
  | .xorReg _ _ => ⟨0xF00F, 0x8003⟩
  | .addReg _ _ => ⟨0xF00F, 0x8004⟩
  | .subReg _ _ => ⟨0xF00F, 0x8005⟩
  | .shr _ _ => ⟨0xF00F, 0x8006⟩
  | .subnReg _ _ => ⟨0xF00F, 0x8007⟩
  | .shl _ _ => ⟨0xF00F, 0x800E⟩
  | .sneReg _ _ => ⟨0xF00F, 0x9000⟩
  | .ldI _ => ⟨0xF000, 0xA000⟩
  | .jpV0 _ _ => ⟨0xF000, 0xB000⟩
  | .rnd _ _ => ⟨0xF000, 0xC000⟩
  | .drw _ _ _ => ⟨0xF000, 0xD000⟩
  | .skp _ => ⟨0xF0FF, 0xE09E⟩
  | .sknp _ => ⟨0xF0FF, 0xE0A1⟩
  | .ldVxDt _ => ⟨0xF0FF, 0xF007⟩
  | .ldVxK _ => ⟨0xF0FF, 0xF00A⟩
  | .ldDtVx _ => ⟨0xF0FF, 0xF015⟩
  | .ldStVx _ => ⟨0xF0FF, 0xF018⟩
  | .addI _ => ⟨0xF0FF, 0xF01E⟩
  | .ldF _ => ⟨0xF0FF, 0xF029⟩
  | .ldB _ => ⟨0xF0FF, 0xF033⟩
  | .ldMemVx _ => ⟨0xF0FF, 0xF055⟩
  | .ldVxMem _ => ⟨0xF0FF, 0xF065⟩

/-- The row is one of the map's, and the encoding selects it. -/
def Statement (i : Instr) : Prop := row i ∈ opcodePatterns ∧ (row i).selects (encode i) = true

theorem cls : Statement .cls := ⟨by decide, by decide⟩
theorem ret : Statement .ret := ⟨by decide, by decide⟩
theorem jp (nnn : Addr) : Statement (.jp nnn) := ⟨by show ⟨0xF000, 0x1000⟩ ∈ opcodePatterns; decide, (selects_F000 _ _).mpr (by rw [encode, fieldN1_A]; rfl)⟩
theorem call (nnn : Addr) : Statement (.call nnn) := ⟨by show ⟨0xF000, 0x2000⟩ ∈ opcodePatterns; decide, (selects_F000 _ _).mpr (by rw [encode, fieldN1_A]; rfl)⟩
theorem seImm (x : Nibble) (kk : Byte) : Statement (.seImm x kk) := ⟨by show ⟨0xF000, 0x3000⟩ ∈ opcodePatterns; decide, (selects_F000 _ _).mpr (by rw [encode, fieldN1_XK]; rfl)⟩
theorem sneImm (x : Nibble) (kk : Byte) : Statement (.sneImm x kk) := ⟨by show ⟨0xF000, 0x4000⟩ ∈ opcodePatterns; decide, (selects_F000 _ _).mpr (by rw [encode, fieldN1_XK]; rfl)⟩
theorem seReg (x : Nibble) (y : Nibble) : Statement (.seReg x y) := ⟨by show ⟨0xF00F, 0x5000⟩ ∈ opcodePatterns; decide, (selects_F00F _ _).mpr (by rw [encode, fieldN1_XY, fieldN_XY]; rfl)⟩
theorem ldImm (x : Nibble) (kk : Byte) : Statement (.ldImm x kk) := ⟨by show ⟨0xF000, 0x6000⟩ ∈ opcodePatterns; decide, (selects_F000 _ _).mpr (by rw [encode, fieldN1_XK]; rfl)⟩
theorem addImm (x : Nibble) (kk : Byte) : Statement (.addImm x kk) := ⟨by show ⟨0xF000, 0x7000⟩ ∈ opcodePatterns; decide, (selects_F000 _ _).mpr (by rw [encode, fieldN1_XK]; rfl)⟩
theorem ldReg (x : Nibble) (y : Nibble) : Statement (.ldReg x y) := ⟨by show ⟨0xF00F, 0x8000⟩ ∈ opcodePatterns; decide, (selects_F00F _ _).mpr (by rw [encode, fieldN1_XY, fieldN_XY]; rfl)⟩
theorem orReg (x : Nibble) (y : Nibble) : Statement (.orReg x y) := ⟨by show ⟨0xF00F, 0x8001⟩ ∈ opcodePatterns; decide, (selects_F00F _ _).mpr (by rw [encode, fieldN1_XY, fieldN_XY]; rfl)⟩
theorem andReg (x : Nibble) (y : Nibble) : Statement (.andReg x y) := ⟨by show ⟨0xF00F, 0x8002⟩ ∈ opcodePatterns; decide, (selects_F00F _ _).mpr (by rw [encode, fieldN1_XY, fieldN_XY]; rfl)⟩
theorem xorReg (x : Nibble) (y : Nibble) : Statement (.xorReg x y) := ⟨by show ⟨0xF00F, 0x8003⟩ ∈ opcodePatterns; decide, (selects_F00F _ _).mpr (by rw [encode, fieldN1_XY, fieldN_XY]; rfl)⟩
theorem addReg (x : Nibble) (y : Nibble) : Statement (.addReg x y) := ⟨by show ⟨0xF00F, 0x8004⟩ ∈ opcodePatterns; decide, (selects_F00F _ _).mpr (by rw [encode, fieldN1_XY, fieldN_XY]; rfl)⟩
theorem subReg (x : Nibble) (y : Nibble) : Statement (.subReg x y) := ⟨by show ⟨0xF00F, 0x8005⟩ ∈ opcodePatterns; decide, (selects_F00F _ _).mpr (by rw [encode, fieldN1_XY, fieldN_XY]; rfl)⟩
theorem shr (x : Nibble) (y : Nibble) : Statement (.shr x y) := ⟨by show ⟨0xF00F, 0x8006⟩ ∈ opcodePatterns; decide, (selects_F00F _ _).mpr (by rw [encode, fieldN1_XY, fieldN_XY]; rfl)⟩
theorem subnReg (x : Nibble) (y : Nibble) : Statement (.subnReg x y) := ⟨by show ⟨0xF00F, 0x8007⟩ ∈ opcodePatterns; decide, (selects_F00F _ _).mpr (by rw [encode, fieldN1_XY, fieldN_XY]; rfl)⟩
theorem shl (x : Nibble) (y : Nibble) : Statement (.shl x y) := ⟨by show ⟨0xF00F, 0x800E⟩ ∈ opcodePatterns; decide, (selects_F00F _ _).mpr (by rw [encode, fieldN1_XY, fieldN_XY]; rfl)⟩
theorem sneReg (x : Nibble) (y : Nibble) : Statement (.sneReg x y) := ⟨by show ⟨0xF00F, 0x9000⟩ ∈ opcodePatterns; decide, (selects_F00F _ _).mpr (by rw [encode, fieldN1_XY, fieldN_XY]; rfl)⟩
theorem ldI (nnn : Addr) : Statement (.ldI nnn) := ⟨by show ⟨0xF000, 0xA000⟩ ∈ opcodePatterns; decide, (selects_F000 _ _).mpr (by rw [encode, fieldN1_A]; rfl)⟩
theorem jpV0 (x : Nibble) (nnn : Addr) : Statement (.jpV0 x nnn) := ⟨by show ⟨0xF000, 0xB000⟩ ∈ opcodePatterns; decide, (selects_F000 _ _).mpr (by rw [encode, fieldN1_A]; rfl)⟩
theorem rnd (x : Nibble) (kk : Byte) : Statement (.rnd x kk) := ⟨by show ⟨0xF000, 0xC000⟩ ∈ opcodePatterns; decide, (selects_F000 _ _).mpr (by rw [encode, fieldN1_XK]; rfl)⟩
theorem drw (x : Nibble) (y : Nibble) (n : Nibble) : Statement (.drw x y n) := ⟨by show ⟨0xF000, 0xD000⟩ ∈ opcodePatterns; decide, (selects_F000 _ _).mpr (by rw [encode, fieldN1_XY]; rfl)⟩
theorem skp (x : Nibble) : Statement (.skp x) := ⟨by show ⟨0xF0FF, 0xE09E⟩ ∈ opcodePatterns; decide, (selects_F0FF _ _).mpr (by rw [encode, fieldN1_XK, fieldKk_XK]; rfl)⟩
theorem sknp (x : Nibble) : Statement (.sknp x) := ⟨by show ⟨0xF0FF, 0xE0A1⟩ ∈ opcodePatterns; decide, (selects_F0FF _ _).mpr (by rw [encode, fieldN1_XK, fieldKk_XK]; rfl)⟩
theorem ldVxDt (x : Nibble) : Statement (.ldVxDt x) := ⟨by show ⟨0xF0FF, 0xF007⟩ ∈ opcodePatterns; decide, (selects_F0FF _ _).mpr (by rw [encode, fieldN1_XK, fieldKk_XK]; rfl)⟩
theorem ldVxK (x : Nibble) : Statement (.ldVxK x) := ⟨by show ⟨0xF0FF, 0xF00A⟩ ∈ opcodePatterns; decide, (selects_F0FF _ _).mpr (by rw [encode, fieldN1_XK, fieldKk_XK]; rfl)⟩
theorem ldDtVx (x : Nibble) : Statement (.ldDtVx x) := ⟨by show ⟨0xF0FF, 0xF015⟩ ∈ opcodePatterns; decide, (selects_F0FF _ _).mpr (by rw [encode, fieldN1_XK, fieldKk_XK]; rfl)⟩
theorem ldStVx (x : Nibble) : Statement (.ldStVx x) := ⟨by show ⟨0xF0FF, 0xF018⟩ ∈ opcodePatterns; decide, (selects_F0FF _ _).mpr (by rw [encode, fieldN1_XK, fieldKk_XK]; rfl)⟩
theorem addI (x : Nibble) : Statement (.addI x) := ⟨by show ⟨0xF0FF, 0xF01E⟩ ∈ opcodePatterns; decide, (selects_F0FF _ _).mpr (by rw [encode, fieldN1_XK, fieldKk_XK]; rfl)⟩
theorem ldF (x : Nibble) : Statement (.ldF x) := ⟨by show ⟨0xF0FF, 0xF029⟩ ∈ opcodePatterns; decide, (selects_F0FF _ _).mpr (by rw [encode, fieldN1_XK, fieldKk_XK]; rfl)⟩
theorem ldB (x : Nibble) : Statement (.ldB x) := ⟨by show ⟨0xF0FF, 0xF033⟩ ∈ opcodePatterns; decide, (selects_F0FF _ _).mpr (by rw [encode, fieldN1_XK, fieldKk_XK]; rfl)⟩
theorem ldMemVx (x : Nibble) : Statement (.ldMemVx x) := ⟨by show ⟨0xF0FF, 0xF055⟩ ∈ opcodePatterns; decide, (selects_F0FF _ _).mpr (by rw [encode, fieldN1_XK, fieldKk_XK]; rfl)⟩
theorem ldVxMem (x : Nibble) : Statement (.ldVxMem x) := ⟨by show ⟨0xF0FF, 0xF065⟩ ∈ opcodePatterns; decide, (selects_F0FF _ _).mpr (by rw [encode, fieldN1_XK, fieldKk_XK]; rfl)⟩

end Sys2Proof.Laws.TablePattern
end

