-- ==== Sys2Proof/Tests/Slice0.lean ====
section
/-! SUPPORT. Small tests. Expected values are the worked examples and vectors of 95_test_vectors.md (named in each comment) or words
written out bit by bit from 30_encoding.md R66. -/

namespace Sys2Proof.Tests

open Sys2Proof.Machine

/-! ### Helpers -/

/-- A fresh instance with one instruction word at PC = 0x200. -/
def fresh (w : Nat) : State := State.reset.withFetchWord 16 w

/-- One step answers a next state with the property. -/
def stepsTo (s : State) (p : State → Bool) : Bool :=
  match step s with
  | .next t => p t
  | .fault _ | .refused _ => false

/-- One step from the state after a step. -/
def stepsTwice (s : State) (p : State → Bool) : Bool := stepsTo s fun t => stepsTo t p

/-- Set I, write bytes there. -/
def withData (s : State) (a : Nat) (bs : List Byte) : State :=
  { s with i := BitVec.ofNat 16 a, mem := s.mem.writeBytes a bs }

/-- V0.. hold the listed bytes. -/
def withRegs (s : State) : List (Nibble × Byte) → State
  | [] => s
  | (r, b) :: rest => withRegs (s.setReg r b) rest

/-- PC, VF and the fault latch after a step that raised nothing. -/
def pcAndFlag (t : State) (pc : Word) (vf : Byte) : Bool := t.pc == pc && t.reg 15#4 == vf && t.fault == none

/-! ### Ill-formed terms -/

theorem test_wf_refuses_jpV0_with_other_x : (Instr.jpV0 3#4 0x210#12).wf = false := by decide
theorem test_wf_accepts_jpV0 : (Instr.jpV0 2#4 0x210#12).wf = true := by decide
theorem test_wf_refuses_ldReg_without_parameter : (Instr.ldReg 1#4 2#4).wfWith false = false := by decide
theorem test_wf_accepts_ldReg : (Instr.ldReg 1#4 2#4).wf = true := by decide

/-! ### Decoding, every row of R66 -/

theorem test_decode_family0 :
    decodeWord 0b0000000011100000#16 = some .cls ∧ decodeWord 0b0000000011101110#16 = some .ret := by decide
theorem test_decode_addresses :
    decodeWord 0b0001001010111100#16 = some (.jp 0x2BC#12) ∧ decodeWord 0b0010101010111100#16 = some (.call 0xABC#12) ∧
    decodeWord 0b1010111111111111#16 = some (.ldI 0xFFF#12) ∧ decodeWord 0b1011001000010000#16 = some (.jpV0 2#4 0x210#12) := by decide
theorem test_decode_immediates :
    decodeWord 0b0011000100101010#16 = some (.seImm 1#4 0x2A#8) ∧ decodeWord 0b0100000100101010#16 = some (.sneImm 1#4 0x2A#8) ∧
    decodeWord 0b0110101000101100#16 = some (.ldImm 0xA#4 0x2C#8) ∧ decodeWord 0b0111000100100000#16 = some (.addImm 1#4 0x20#8) ∧
    decodeWord 0b1100001111110000#16 = some (.rnd 3#4 0xF0#8) := by decide
theorem test_decode_register_skips :
    decodeWord 0b0101001000110000#16 = some (.seReg 2#4 3#4) ∧ decodeWord 0b1001001000110000#16 = some (.sneReg 2#4 3#4) := by decide
theorem test_decode_family8_low :
    decodeWord 0b1000000100100000#16 = some (.ldReg 1#4 2#4) ∧ decodeWord 0b1000000100100001#16 = some (.orReg 1#4 2#4) ∧
    decodeWord 0b1000000100100010#16 = some (.andReg 1#4 2#4) ∧ decodeWord 0b1000000100100011#16 = some (.xorReg 1#4 2#4) := by decide
theorem test_decode_family8_high :
    decodeWord 0b1000000100100100#16 = some (.addReg 1#4 2#4) ∧ decodeWord 0b1000000100100101#16 = some (.subReg 1#4 2#4) ∧
    decodeWord 0b1000000100100110#16 = some (.shr 1#4 2#4) ∧ decodeWord 0b1000000100100111#16 = some (.subnReg 1#4 2#4) ∧
    decodeWord 0b1000000100101110#16 = some (.shl 1#4 2#4) := by decide
theorem test_decode_draw_and_keys :
    decodeWord 0b1101000000010101#16 = some (.drw 0#4 1#4 5#4) ∧ decodeWord 0b1110010110011110#16 = some (.skp 5#4) ∧
    decodeWord 0b1110000110100001#16 = some (.sknp 1#4) := by decide
theorem test_decode_familyF_low :
    decodeWord 0b1111000100000111#16 = some (.ldVxDt 1#4) ∧ decodeWord 0b1111001100001010#16 = some (.ldVxK 3#4) ∧
    decodeWord 0b1111000100010101#16 = some (.ldDtVx 1#4) ∧ decodeWord 0b1111000100011000#16 = some (.ldStVx 1#4) ∧
    decodeWord 0b1111001000011110#16 = some (.addI 2#4) := by decide
theorem test_decode_familyF_high :
    decodeWord 0b1111000100101001#16 = some (.ldF 1#4) ∧ decodeWord 0b1111010000110011#16 = some (.ldB 4#4) ∧
    decodeWord 0b1111001001010101#16 = some (.ldMemVx 2#4) ∧ decodeWord 0b1111001001100101#16 = some (.ldVxMem 2#4) := by decide

/-- CF16, SK13, AL32, TK15: words with no pattern. -/
theorem test_decode_invalid :
    [0x00E1#16, 0x0000#16, 0x0123#16, 0x00FE#16, 0x5121#16, 0x9121#16, 0x8128#16, 0x812F#16, 0xE19F#16, 0xE1A0#16, 0xF100#16,
      0xF156#16, 0xF175#16].all (fun w => decodeWord w == none) = true := by decide

/-- R72: of the 65536 words the rows select 43954, which leaves 21582; a row selects 2 to the number of its free bits. -/
theorem test_valid_word_count :
    (opcodePatterns.map fun p => 2 ^ ((List.range 16).countP fun k => !p.mask.getLsbD k)).sum = 65536 - 21582 := by decide

theorem test_decode_two_bytes_high_first : decode [0x6A#8, 0x2C#8, 0x77#8] = some (.ldImm 0xA#4 0x2C#8, [0x77#8]) := by decide
theorem test_decode_short_input : decode [0x6A#8] = none := by decide
theorem test_decode_table_word : decodeTableWord 16 0xD015 = some (.drw 0#4 1#4 5#4) ∧ decodeTableWord 16 0x0000 = none := by decide

/-! ### Listings -/

/-- Lines of programs P1, P2 and P3. -/
theorem test_listing_of_programs :
    wordText 0x2208#16 = "CALL 0x208" ∧ wordText 0x71FF#16 = "ADD V1, 0xFF" ∧ wordText 0x00EE#16 = "RET" ∧
    wordText 0xA300#16 = "LD I, 0x300" ∧ wordText 0xF033#16 = "LD B, V0" ∧ wordText 0xF265#16 = "LD V2, [I]" ∧
    wordText 0xF00A#16 = "LD V0, K" := by decide
/-- R74: `V0` is written for every `x`, `y` is not written, and R75: a word with no pattern is data. -/
theorem test_listing_corners :
    wordText 0xB210#16 = "JP V0, 0x210" ∧ wordText 0x8126#16 = "SHR V1" ∧ wordText 0x812E#16 = "SHL V1" ∧
    (Instr.shr 1#4 2#4).asListed = .shr 1#4 0#4 ∧ wordText 0x00E1#16 = "DW 0x00E1" := by decide

/-! ### Step cycle -/

/-- T5. -/
theorem test_step_timers_and_load :
    stepsTo { fresh 0x6A2C with dt := 3#8, st := 1#8, render := true }
      (fun t => pcAndFlag t 0x202#16 0#8 && t.reg 0xA#4 == 0x2C#8 && t.dt == 2#8 && t.st == 0#8 && !t.render) = true := by decide

/-- T3: the report, the stall, the timers. -/
theorem test_step_invalid_opcode :
    stepsTwice { fresh 0xFFFF with dt := 5#8 }
      (fun t => pcAndFlag t 0x200#16 0#8 && t.dt == 3#8 && t.reports == [0xFFFF#16, 0xFFFF#16]) = true := by decide

/-- T6: an odd PC executes. -/
theorem test_step_odd_pc :
    stepsTo ({ State.reset with pc := 0x203#16 }.withFetchWord 16 0x6A2C) (fun t => t.pc == 0x205#16 && t.reg 0xA#4 == 0x2C#8) = true := by
  decide

/-- CF3: the next step after a jump to 0xFFF. -/
theorem test_step_fetch_fault :
    stepsTwice (fresh 0x1FFF) (fun t => t.fault == some (.fetchAddressOutOfRange 0xFFF#16) && t.pc == 0xFFF#16) = true := by decide

/-- The word at 0xFFE is the last that can be fetched (R84). -/
theorem test_step_last_word :
    stepsTo ({ State.reset with pc := 0xFFE#16 }.withFetchWord 16 0x3100) (fun t => pcAndFlag t 0x1002#16 0#8) = true := by decide

/-! ### Control flow -/

/-- CF1, E1. -/
theorem test_cls :
    stepsTo { fresh 0x00E0 with disp := ⟨64, 32, [0, 2047]⟩ } (fun t => t.disp == ⟨64, 32, []⟩ && t.render && t.pc == 0x202#16) = true := by
  decide
/-- CF5. -/
theorem test_jp_self : stepsTo (fresh 0x1200) (fun t => pcAndFlag t 0x200#16 0#8) = true := by decide
/-- CF7. -/
theorem test_call_to_the_last_cell :
    stepsTo ({ State.reset with pc := 0x345#16, sp := 14#4 }.withFetchWord 16 0x2ABC)
      (fun t => pcAndFlag t 0xABC#16 0#8 && t.sp == 15#4 && t.stackAt 15#4 == 0x345#16 && t.stackAt 14#4 == 0#16) = true := by decide
/-- CF8. -/
theorem test_call_overflow :
    stepsTo ({ State.reset with pc := 0x345#16, sp := 15#4 }.withFetchWord 16 0x2ABC)
      (fun t => t.fault == some (.stackOverflow 0x345#16) && t.sp == 15#4 && t.pc == 0x345#16 && t.stackAt 15#4 == 0#16) = true := by
  decide
/-- CF10. -/
theorem test_ret :
    stepsTo ({ State.reset with pc := 0x400#16, sp := 15#4, stack := State.reset.stack.set 15 0xFFE#16 }.withFetchWord 16 0x00EE)
      (fun t => t.pc == 0x1000#16 && t.sp == 14#4 && t.stackAt 15#4 == 0xFFE#16 && t.fault == none) = true := by decide
/-- P4(d), CF11. -/
theorem test_ret_underflow :
    stepsTo (fresh 0x00EE) (fun t => t.fault == some (.stackUnderflow 0x200#16) && t.pc == 0x200#16 && t.sp == 0#4) = true := by decide
/-- CF12. -/
theorem test_jpV0_uses_vx :
    stepsTo (withRegs (fresh 0xB210) [(2#4, 5#8), (0#4, 0xFF#8)]) (fun t => t.pc == 0x215#16) = true := by decide
/-- CF15. -/
theorem test_jpV0_is_not_cut : stepsTo (withRegs (fresh 0xBFFF) [(15#4, 0xFF#8)]) (fun t => t.pc == 0x10FE#16 && t.fault == none) = true := by
  decide

/-! ### Skips -/

/-- SK1, SK2. -/
theorem test_seImm :
    stepsTo (withRegs (fresh 0x312A) [(1#4, 0x2A#8)]) (fun t => t.pc == 0x204#16) = true ∧
    stepsTo (withRegs (fresh 0x312A) [(1#4, 0x2B#8)]) (fun t => t.pc == 0x202#16) = true := by decide
/-- SK3, SK4. -/
theorem test_sneImm :
    stepsTo (withRegs (fresh 0x412A) [(1#4, 0x2A#8)]) (fun t => t.pc == 0x202#16) = true ∧
    stepsTo (fresh 0x412A) (fun t => t.pc == 0x204#16) = true := by decide
/-- SK7, SK8. -/
theorem test_seReg :
    stepsTo (withRegs (fresh 0x5230) [(2#4, 7#8), (3#4, 7#8)]) (fun t => t.pc == 0x204#16) = true ∧
    stepsTo (withRegs (fresh 0x5110) [(1#4, 9#8)]) (fun t => t.pc == 0x204#16) = true := by decide
/-- SK9, SK10. -/
theorem test_sneReg :
    stepsTo (withRegs (fresh 0x9230) [(2#4, 7#8), (3#4, 8#8)]) (fun t => t.pc == 0x204#16) = true ∧
    stepsTo (withRegs (fresh 0x9110) [(1#4, 9#8)]) (fun t => t.pc == 0x202#16) = true := by decide
/-- TK9, TK8. -/
theorem test_skp :
    stepsTo ((withRegs (fresh 0xE19E) [(1#4, 0x1A#8)]).keyPress 0xA#4) (fun t => t.pc == 0x204#16) = true ∧
    stepsTo (withRegs (fresh 0xE19E) [(1#4, 0x0A#8)]) (fun t => t.pc == 0x202#16) = true := by decide
/-- TK10, TK11. -/
theorem test_sknp :
    stepsTo ((withRegs (fresh 0xE1A1) [(1#4, 0xFA#8)]).keyPress 0xA#4) (fun t => t.pc == 0x202#16) = true ∧
    stepsTo (fresh 0xE1A1) (fun t => t.pc == 0x204#16) = true := by decide

/-- R7, D13: the alternative policy stops above 15 and not at 15. -/
theorem test_key_index_refused :
    (match stepWith ⟨true, .refuse⟩ (withRegs (fresh 0xE19E) [(1#4, 0x10#8)]) with
      | .refused r => r == .keyIndexAbove15
      | .next _ | .fault _ => false) = true ∧
    (match stepWith ⟨true, .refuse⟩ (withRegs (fresh 0xE1A1) [(1#4, 0x0F#8)]) with
      | .next t => t.pc == 0x204#16
      | .refused _ | .fault _ => false) = true := by decide

/-- R7, D16: without `HAS_LD_VX_VY` 8xy0 is an invalid opcode, and 8xy1 is not. -/
theorem test_without_ldReg :
    (match stepWith ⟨false, .mask⟩ (fresh 0x8120) with
      | .next t => t.pc == 0x200#16 && t.reports == [0x8120#16]
      | .refused _ | .fault _ => false) = true ∧
    (match stepWith ⟨false, .mask⟩ (fresh 0x8121) with
      | .next t => t.pc == 0x202#16
      | .refused _ | .fault _ => false) = true := by decide

/-! ### Loads and arithmetic -/

/-- IM3, IM4. -/
theorem test_addImm :
    stepsTo (withRegs (fresh 0x71FF) [(1#4, 1#8), (15#4, 1#8)]) (fun t => pcAndFlag t 0x202#16 1#8 && t.reg 1#4 == 0#8) = true ∧
    stepsTo (withRegs (fresh 0x7F01) [(15#4, 0xFF#8)]) (fun t => pcAndFlag t 0x202#16 0#8) = true := by decide
/-- AL1, AL3. -/
theorem test_ldReg :
    stepsTo (withRegs (fresh 0x8120) [(2#4, 0x55#8)]) (fun t => pcAndFlag t 0x202#16 0#8 && t.reg 1#4 == 0x55#8) = true ∧
    stepsTo (withRegs (fresh 0x81F0) [(15#4, 9#8)]) (fun t => pcAndFlag t 0x202#16 9#8 && t.reg 1#4 == 9#8) = true := by decide
/-- AL6, AL5. -/
theorem test_orReg :
    stepsTo (withRegs (fresh 0x81F1) [(1#4, 0xF0#8), (15#4, 1#8)]) (fun t => pcAndFlag t 0x202#16 0#8 && t.reg 1#4 == 0xF1#8) = true ∧
    stepsTo (withRegs (fresh 0x8F11) [(15#4, 0x0F#8), (1#4, 0xF0#8)]) (fun t => pcAndFlag t 0x202#16 0#8) = true := by decide
/-- AL7, AL8. -/
theorem test_andReg :
    stepsTo (withRegs (fresh 0x8122) [(1#4, 0x3C#8), (2#4, 0x0F#8)]) (fun t => pcAndFlag t 0x202#16 0#8 && t.reg 1#4 == 0x0C#8) = true ∧
    stepsTo (withRegs (fresh 0x81F2) [(1#4, 0xF0#8), (15#4, 0xFF#8)]) (fun t => pcAndFlag t 0x202#16 0#8 && t.reg 1#4 == 0xF0#8) = true := by
  decide
/-- AL9, AL10. -/
theorem test_xorReg :
    stepsTo (withRegs (fresh 0x8123) [(1#4, 0xFF#8), (2#4, 0x0F#8)]) (fun t => pcAndFlag t 0x202#16 0#8 && t.reg 1#4 == 0xF0#8) = true ∧
    stepsTo (withRegs (fresh 0x8113) [(1#4, 0xAB#8), (15#4, 1#8)]) (fun t => pcAndFlag t 0x202#16 0#8 && t.reg 1#4 == 0#8) = true := by decide
/-- AL13, AL15. -/
theorem test_addReg :
    stepsTo (withRegs (fresh 0x8124) [(1#4, 0xFF#8), (2#4, 1#8)]) (fun t => pcAndFlag t 0x202#16 1#8 && t.reg 1#4 == 0#8) = true ∧
    stepsTo (withRegs (fresh 0x8F14) [(15#4, 1#8), (1#4, 1#8)]) (fun t => pcAndFlag t 0x202#16 0#8) = true := by decide
/-- AL19, E2 (equality sets VF). -/
theorem test_subReg :
    stepsTo (withRegs (fresh 0x8125) [(2#4, 1#8)]) (fun t => pcAndFlag t 0x202#16 0#8 && t.reg 1#4 == 0xFF#8) = true ∧
    stepsTo (withRegs (fresh 0x8125) [(1#4, 0x42#8), (2#4, 0x42#8)]) (fun t => pcAndFlag t 0x202#16 1#8 && t.reg 1#4 == 0#8) = true := by decide
/-- E2, AL23. -/
theorem test_subnReg :
    stepsTo (withRegs (fresh 0x8127) [(1#4, 0x10#8), (2#4, 0x20#8)]) (fun t => pcAndFlag t 0x202#16 1#8 && t.reg 1#4 == 0x10#8) = true ∧
    stepsTo (withRegs (fresh 0x8F17) [(15#4, 5#8), (1#4, 3#8)]) (fun t => pcAndFlag t 0x202#16 0#8) = true := by decide
/-- AL24, AL26. -/
theorem test_shr :
    stepsTo (withRegs (fresh 0x8126) [(1#4, 0xFF#8)]) (fun t => pcAndFlag t 0x202#16 1#8 && t.reg 1#4 == 0x7F#8) = true ∧
    stepsTo (withRegs (fresh 0x8F06) [(15#4, 3#8)]) (fun t => pcAndFlag t 0x202#16 1#8) = true := by decide
/-- AL28, AL31. -/
theorem test_shl :
    stepsTo (withRegs (fresh 0x812E) [(1#4, 0xFF#8)]) (fun t => pcAndFlag t 0x202#16 1#8 && t.reg 1#4 == 0xFE#8) = true ∧
    stepsTo (withRegs (fresh 0x8F0E) [(15#4, 0x41#8)]) (fun t => pcAndFlag t 0x202#16 0#8) = true := by decide
/-- RN3, RN4: supplied draws, used up in order. -/
theorem test_rnd :
    stepsTo ((fresh 0xC10F).supplyRandom [0xB7#8, 1#8]) (fun t => t.reg 1#4 == 7#8 && t.randomInput == [1#8] && t.drawCount == 0) = true ∧
    stepsTo ((fresh 0xCF81).supplyRandom [0xFF#8]) (fun t => pcAndFlag t 0x202#16 0x81#8) = true := by decide
/-- RN1: whatever free byte is drawn, a mask of 0 gives 0, and the next draw is another one. -/
theorem test_rnd_free :
    stepsTo (withRegs (fresh 0xC100) [(1#4, 0x55#8)]) (fun t => t.drawCount == 1 && t.pc == 0x202#16) = true := by decide

/-! ### Memory and the index register -/

/-- MI1. -/
theorem test_ldI : stepsTo (fresh 0xAFFF) (fun t => t.i == 0xFFF#16 && t.pc == 0x202#16) = true := by decide
/-- MI5, MI6. -/
theorem test_addI :
    stepsTo (withRegs { fresh 0xF11E with i := 0xFFFF#16 } [(1#4, 1#8)]) (fun t => pcAndFlag t 0x202#16 0#8 && t.i == 0#16) = true ∧
    stepsTo (withRegs { fresh 0xFF1E with i := 0xFFF#16 } [(15#4, 1#8)]) (fun t => pcAndFlag t 0x202#16 1#8 && t.i == 0x1000#16) = true := by
  decide
/-- MI7, MI10. -/
theorem test_ldF :
    stepsTo (withRegs (fresh 0xF129) [(1#4, 0x0F#8)]) (fun t => t.i == 0x4B#16) = true ∧
    stepsTo (withRegs (fresh 0xF129) [(1#4, 0xFF#8)]) (fun t => t.i == 0x4FB#16) = true := by decide
/-- MI11 and E4. -/
theorem test_ldB :
    stepsTo (withRegs { fresh 0xF133 with i := 0xFFD#16 } [(1#4, 0xFF#8)])
      (fun t => t.mem.read 0xFFD == 2#8 && t.mem.read 0xFFE == 5#8 && t.mem.read 0xFFF == 5#8 && t.i == 0xFFD#16) = true ∧
    stepsTo (withRegs { fresh 0xF433 with i := 0x300#16 } [(4#4, 0xCD#8)])
      (fun t => t.mem.read 0x300 == 2#8 && t.mem.read 0x301 == 0#8 && t.mem.read 0x302 == 5#8) = true := by decide
/-- MI12. -/
theorem test_ldB_fault :
    stepsTo (withRegs { fresh 0xF133 with i := 0xFFE#16 } [(1#4, 0xFF#8)])
      (fun t => t.fault == some (.dataAddressOutOfRange 0x1000) && t.mem.read 0xFFE == 0#8 && t.pc == 0x200#16) = true := by decide
/-- MI25. -/
theorem test_ldMemVx :
    stepsTo (withRegs { fresh 0xF255 with i := 0x400#16 } [(0#4, 0x11#8), (1#4, 0x22#8), (2#4, 0x33#8), (3#4, 0x44#8)])
      (fun t => t.mem.read 0x400 == 0x11#8 && t.mem.read 0x401 == 0x22#8 && t.mem.read 0x402 == 0x33#8 && t.mem.read 0x403 == 0#8 &&
        t.i == 0x403#16) = true := by decide
/-- MI20 in short, MI17. -/
theorem test_ldMemVx_edge :
    stepsTo { fresh 0xFF55 with i := 0xFF1#16 } (fun t => t.fault == some (.dataAddressOutOfRange 0x1000) && t.i == 0xFF1#16) = true ∧
    stepsTo (withRegs { fresh 0xF055 with i := 0xFFF#16 } [(0#4, 0x5A#8)]) (fun t => t.mem.read 0xFFF == 0x5A#8 && t.i == 0x1000#16) = true := by
  decide
/-- MI24. -/
theorem test_ldVxMem :
    stepsTo (withRegs { fresh 0xF265 with i := 0x50#16 } [(0#4, 9#8), (2#4, 9#8), (3#4, 9#8)])
      (fun t => t.reg 0#4 == 0#8 && t.reg 2#4 == 0#8 && t.reg 3#4 == 9#8 && t.i == 0x53#16) = true := by decide
/-- MI23: the font, and MI22. -/
theorem test_ldVxMem_font_and_fault :
    stepsTo (fresh 0xFF65) (fun t => t.reg 0#4 == 0xF0#8 && t.reg 6#4 == 0x60#8 && t.reg 15#4 == 0xF0#8 && t.i == 0x10#16) = true ∧
    stepsTo { fresh 0xF165 with i := 0xFFF#16 } (fun t => t.fault == some (.dataAddressOutOfRange 0x1000)) = true := by decide

/-- The canonical form: writing back what an unlisted address reads as removes the entry. -/
theorem test_memory_is_canonical :
    ((Memory.write [] 0x300 5#8).write 0x300 0#8) = [] ∧ Memory.write [] 0 0xF0#8 = [] ∧ Memory.write [] 0x1000 1#8 = [] := by decide

/-! ### Timers and the key wait -/

/-- TK1, TK3. -/
theorem test_ldVxDt :
    stepsTo { fresh 0xF107 with dt := 5#8 } (fun t => t.reg 1#4 == 4#8 && t.dt == 4#8) = true ∧
    stepsTo (withRegs (fresh 0xF107) [(1#4, 9#8)]) (fun t => t.reg 1#4 == 0#8 && t.dt == 0#8) = true := by decide
/-- TK4. -/
theorem test_ldDtVx :
    stepsTo (withRegs { fresh 0xF115 with dt := 7#8, st := 7#8 } [(1#4, 0xFF#8)]) (fun t => t.dt == 0xFF#8 && t.st == 6#8) = true := by decide
/-- TK5. -/
theorem test_ldStVx : stepsTo { fresh 0xF118 with st := 9#8 } (fun t => t.st == 0#8 && t.pc == 0x202#16) = true := by decide
/-- TK13. -/
theorem test_ldVxK :
    stepsTo ((withRegs (fresh 0xF10A) [(1#4, 0x55#8)]).keyPress 3#4)
      (fun t => t.latch == .awaitingKey 1#4 && t.awaitingKey && t.pc == 0x202#16 && t.reg 1#4 == 0x55#8) = true := by decide
/-- KW1, events 4 to 7. -/
theorem test_key_commit :
    stepsTo ((({ fresh 0x6101 with latch := .awaitingKey 15#4 }.keyPress 5#4).keyPress 7#4).keyRelease 5#4)
      (fun t => pcAndFlag t 0x200#16 5#8 && t.latch == .running && t.key 7#4 && !t.key 5#4) = true := by decide
/-- T4. -/
theorem test_ignored_steps :
    stepsTo { fresh 0x6101 with latch := .awaitingKey 1#4, dt := 3#8 } (fun t => t.dt == 3#8 && t.reg 1#4 == 0#8) = true ∧
    stepsTo { fresh 0x6101 with fault := some (.stackOverflow 0#16), dt := 3#8 } (fun t => t.dt == 3#8 && t.reg 1#4 == 0#8) = true := by decide

/-! ### The sprite engine -/

/-- S2. -/
theorem test_drw_wraps_and_collides :
    stepsTo (withData { withRegs (fresh 0xD011) [(0#4, 0x3C#8)] with disp := ⟨64, 32, [2]⟩ } 0x300 [0xFF#8])
      (fun t => t.disp == ⟨64, 32, [0, 1, 3, 60, 61, 62, 63]⟩ && pcAndFlag t 0x202#16 1#8 && t.render) = true := by decide
/-- S4. -/
theorem test_drw_wraps_both_axes :
    stepsTo (withData (withRegs (fresh 0xD012) [(0#4, 0xFF#8), (1#4, 0xFF#8)]) 0x300 [0xC0#8, 0xC0#8])
      (fun t => t.disp == ⟨64, 32, [0, 63, 31 * 64, 31 * 64 + 63]⟩ && pcAndFlag t 0x202#16 0#8) = true := by decide
/-- S6, S7. -/
theorem test_drw_range :
    stepsTo (withRegs { fresh 0xD010 with i := 0xFFFF#16 } [(15#4, 1#8)]) (fun t => pcAndFlag t 0x202#16 0#8 && t.render) = true ∧
    stepsTo (withRegs { fresh 0xD012 with i := 0xFFF#16 } [(15#4, 1#8)])
      (fun t => t.fault == some (.dataAddressOutOfRange 0x1000) && t.reg 15#4 == 1#8 && !t.render && t.pc == 0x200#16) = true := by decide
/-- S12. -/
theorem test_drw_small_display :
    stepsTo (withData { fresh 0xD011 with disp := ⟨4, 2, []⟩ } 0x300 [0x88#8]) (fun t => t.disp == ⟨4, 2, []⟩ && t.reg 15#4 == 1#8) = true := by
  decide
set_option maxRecDepth 8192 in
/-- S14. -/
theorem test_drw_rows_coincide :
    stepsTo (withData { fresh 0xD013 with disp := ⟨8, 2, []⟩ } 0x300 [0x80#8, 0#8, 0x80#8])
      (fun t => t.disp == ⟨8, 2, []⟩ && t.reg 15#4 == 1#8) = true := by decide

/-! ### Construction and the host -/

set_option maxRecDepth 8192 in
theorem test_construct_defaults : construct 64 32 [] = .next State.reset := by rfl
theorem test_construct_refuses_no_width : construct 0 32 [] = .refused .displayTooSmall := by rfl
set_option maxRecDepth 8192 in
/-- T7: the first step of an instance with `10 00` jumps into the font. -/
theorem test_construct_rom :
    (match construct 64 32 [0x10#8, 0x00#8] with
      | .next s => stepsTo s fun t => t.pc == 0#16 && t.fetchWord == 0xF090#16
      | .fault _ | .refused _ => false) = true := by decide
theorem test_invoke_refuses_two_at_once : invoke [.step, .keyPress 1#4] State.reset = .refused .concurrentOperations := by rfl
theorem test_reset_has_no_program : stepsTo State.reset (fun t => t.reports == [0#16] && t.pc == 0x200#16) = true := by decide
theorem test_core_runs : (match core.step (fresh 0x6A2C) with | .next t => t.reg 0xA#4 == 0x2C#8 | .fault _ | .refused _ => false) = true := by
  decide

/-! ### Witnesses

For every obligation with hypotheses, a concrete state and operands that meet all of them together, clause by clause and at the ends of
the ranges. -/

/-- Blocked in Fx0A for V1. -/
def waitingState : State := { fresh 0x6101 with latch := .awaitingKey 1#4 }

/-- A key write latched, with a PC that could not be fetched from. -/
def pendingState : State := { fresh 0x6101 with latch := .pending 1#4 7#4, pc := 0xFFF#16 }

/-- A latched fault. -/
def faultedState : State := { fresh 0x6101 with fault := some (.stackOverflow 0x200#16), sp := 15#4 }

/-- At the last address that can be fetched from. -/
def lastWordState : State := { State.reset with pc := 0xFFE#16 }.withFetchWord 16 0x6A2C

theorem witness_DecodeEncodeRoundTrip :
    (Instr.jpV0 15#4 0xFFF#12).wf = true ∧ (Instr.ldReg 1#4 2#4).wfWith true = true ∧ (Instr.addReg 1#4 2#4).wfWith false = true := by decide
theorem witness_EncodeDecodeRoundTrip :
    decodeWordWith true 0x8120#16 = some (.ldReg 1#4 2#4) ∧ decodeWordWith false 0xBFFF#16 = some (.jpV0 15#4 0xFFF#12) := by decide
theorem witness_DecodeMatchesOpcodeMap :
    (⟨0xF00F, 0x8004⟩ : OpcodePattern) ∈ opcodePatterns ∧ OpcodePattern.selects ⟨0xF00F, 0x8004⟩ 0x8124#16 = true := by decide
theorem witness_FontAndRomPlaced :
    (List.replicate 3584 0x60#8).length ≤ 3584 ∧ 1 ≤ 1 ∧ 5 * 15 + 4 < 80 ∧ 4 < 5 ∧ 3583 < (List.replicate 3584 0x60#8).length := by
  simp only [List.length_replicate]; decide
theorem witness_ConstructExactly :
    ((List.replicate 3584 0x60#8).length ≤ 3584 ∧ 1 ≤ 64 ∧ 1 ≤ 32 ∧ (80 ≤ 80 ∧ 80 < 0x200) ∧ 0x200 + (List.replicate 3584 0x60#8).length ≤ 0x1000) ∧
    3584 < (List.replicate 3585 0x60#8).length ∧ (([] : List Byte).length ≤ 3584 ∧ (0 = 0 ∨ 32 = 0)) := by
  simp only [List.length_replicate]; decide
theorem witness_StepRunsDecodedInstruction :
    lastWordState.fault = none ∧ lastWordState.latch = .running ∧ lastWordState.pc.toNat < 0xFFF ∧
    decodeWord (lastWordState.mem.read lastWordState.pc.toNat ++ lastWordState.mem.read (lastWordState.pc.toNat + 1)) =
      some (.ldImm 0xA#4 0x2C#8) ∧
    decode [lastWordState.mem.read lastWordState.pc.toNat, lastWordState.mem.read (lastWordState.pc.toNat + 1)] =
      some (.ldImm 0xA#4 0x2C#8, []) := by decide
theorem witness_StepRunsDecodedInstruction_invalid :
    State.reset.fault = none ∧ State.reset.latch = .running ∧ State.reset.pc.toNat < 0xFFF ∧
    decodeWord (State.reset.mem.read State.reset.pc.toNat ++ State.reset.mem.read (State.reset.pc.toNat + 1)) = none := by decide
theorem witness_IgnoredStepChangesNothing :
    (∃ r, waitingState.latch = .awaitingKey r) ∧ faultedState.fault ≠ none := ⟨⟨1#4, rfl⟩, by decide⟩
theorem witness_CommitStepWritesKey : pendingState.fault = none ∧ pendingState.latch = .pending 1#4 7#4 := by decide
theorem witness_FetchOutOfRangeFaults :
    State.decodesNext { State.reset with pc := 0xFFF#16 } ∧ 0xFFF ≤ (0xFFF#16 : Word).toNat := ⟨⟨rfl, rfl⟩, by decide⟩
theorem witness_InvalidOpcodeStallsForever : State.reset.stalled := ⟨⟨rfl, rfl⟩, by decide, by decide⟩
theorem witness_TimersDecrementOncePerStep :
    (fresh 0xF115).fault = none ∧ (fresh 0xF115).awaitingKey = false ∧ (∃ t, step (fresh 0xF115) = .next t) ∧
    (fresh 0xF115).latch = .running ∧ (fresh 0xF115).fetchDecode = .instr (.ldDtVx 1#4) ∧
    (fresh 0xF118).latch = .running ∧ (fresh 0xF118).fetchDecode = .instr (.ldStVx 1#4) :=
  ⟨rfl, rfl, ⟨_, rfl⟩, rfl, by decide, rfl, by decide⟩
theorem witness_RenderOnlyAfterClsOrDrw :
    (fresh 0x00E0).fault = none ∧ (fresh 0x00E0).awaitingKey = false ∧ ∃ t, step (fresh 0x00E0) = .next t := ⟨rfl, rfl, _, rfl⟩
theorem witness_PcFollowsClassTable :
    ((∃ t, step pendingState = .next t ∧ t.fault = none) ∧ pendingState.fault = none ∧ pendingState.latch = .pending 1#4 7#4) ∧
    ((∃ t, step State.reset = .next t ∧ t.fault = none) ∧ State.reset.latch = .running ∧ decodeWord State.reset.fetchWord = none) ∧
    ((∃ t, step lastWordState = .next t ∧ t.fault = none) ∧ lastWordState.fault = none ∧ lastWordState.latch = .running ∧
      decodeWord lastWordState.fetchWord = some (.ldImm 0xA#4 0x2C#8)) :=
  ⟨⟨⟨_, rfl, rfl⟩, rfl, rfl⟩, ⟨⟨_, rfl, rfl⟩, rfl, by decide⟩, ⟨_, rfl, rfl⟩, rfl, rfl, by decide⟩
theorem witness_KeyWaitRoundTrip :
    (fresh 0xF30A).decodesNext ∧ (fresh 0xF30A).canFetch = true ∧ decodeWord (fresh 0xF30A).fetchWord = some (.ldVxK 3#4) :=
  ⟨⟨rfl, rfl⟩, by decide, by decide⟩
theorem witness_KeyPressEffect :
    waitingState.fault = none ∧ waitingState.latch = .awaitingKey 1#4 ∧ (0#4 : Nibble) ≠ 15#4 ∧ pendingState.fault = none ∧
    pendingState.awaitingKey = false := by decide
theorem witness_KeyReleaseEffect : pendingState.fault = none ∧ (0#4 : Nibble) ≠ 15#4 := by decide
theorem witness_FaultedIsTerminal : faultedState.faulted := show faultedState.fault ≠ none by decide
theorem witness_WaitHasNoTimeout :
    waitingState.latch = .awaitingKey 1#4 ∧ (∀ k, HostOp.keyPress k ∉ [HostOp.step, .keyRelease 5#4]) ∧
    (∀ k, HostOp.keyRelease k ∉ [HostOp.step, .read]) := ⟨rfl, by simp, by simp⟩
theorem witness_LatchMovesOnlyAsTable :
    (waitingState.fault = none ∧ (∃ t, step waitingState = .next t) ∧ waitingState.latch = .awaitingKey 1#4) ∧
    (pendingState.fault = none ∧ (∃ t, step pendingState = .next t) ∧ pendingState.latch = .pending 1#4 7#4) ∧
    ((∃ t, step (fresh 0xF30A) = .next t) ∧ (fresh 0xF30A).latch = .running ∧ (fresh 0xF30A).fetchDecode = .instr (.ldVxK 3#4)) ∧
    ((∃ t, step State.reset = .next t) ∧ State.reset.latch = .running ∧ ∀ r, State.reset.fetchDecode ≠ .instr (.ldVxK r)) :=
  ⟨⟨rfl, ⟨_, rfl⟩, rfl⟩, ⟨rfl, ⟨_, rfl⟩, rfl⟩, ⟨⟨_, rfl⟩, rfl, by decide⟩, ⟨_, rfl⟩, rfl, by decide⟩

/-- One state per cause, each at the first value that faults: PC = 0xFFF, SP = 15, SP = 0, and the highest address 0x1000. -/
theorem witness_FaultIsPrecise :
    (∃ t, step { State.reset with pc := 0xFFF#16 } = .next t ∧ t.fault = some (.fetchAddressOutOfRange 0xFFF#16)) ∧
    (∃ t, step { fresh 0x2ABC with sp := 15#4 } = .next t ∧ t.fault = some (.stackOverflow 0x200#16)) ∧
    (∃ t, step (fresh 0x00EE) = .next t ∧ t.fault = some (.stackUnderflow 0x200#16)) ∧
    (∃ t, step { fresh 0xF133 with i := 0xFFE#16 } = .next t ∧ t.fault = some (.dataAddressOutOfRange 0x1000)) :=
  ⟨⟨_, rfl, rfl⟩, ⟨_, rfl, rfl⟩, ⟨_, rfl, rfl⟩, ⟨_, rfl, rfl⟩⟩

/-- The other three data forms at the first value that faults, and the last values that do not. -/
theorem witness_FaultsExactlyWhen :
    (fresh 0xF155).decodesNext ∧
    (∃ t, step { fresh 0xF155 with i := 0xFFF#16 } = .next t ∧ t.fault = some (.dataAddressOutOfRange 0x1000)) ∧
    (∃ t, step { fresh 0xF165 with i := 0xFFF#16 } = .next t ∧ t.fault = some (.dataAddressOutOfRange 0x1000)) ∧
    (∃ t, step { fresh 0xD012 with i := 0xFFF#16 } = .next t ∧ t.fault = some (.dataAddressOutOfRange 0x1000)) ∧
    (∃ t, step lastWordState = .next t ∧ t.fault = none) ∧ (∃ t, step { fresh 0x2ABC with sp := 14#4 } = .next t ∧ t.fault = none) ∧
    (∃ t, step { fresh 0xF133 with i := 0xFFD#16 } = .next t ∧ t.fault = none) :=
  ⟨⟨rfl, rfl⟩, ⟨_, rfl, rfl⟩, ⟨_, rfl, rfl⟩, ⟨_, rfl, rfl⟩, ⟨_, rfl, rfl⟩, ⟨_, rfl, rfl⟩, ⟨_, rfl, rfl⟩⟩

theorem witness_OnlyTheseInstructionsWrite :
    (∃ t, exec (.ldI 0xABC#12) State.reset = .next t ∧ t.i ≠ State.reset.i) ∧
    (∃ t, exec (.call 0x300#12) State.reset = .next t ∧ t.sp ≠ State.reset.sp ∧ t.stack ≠ State.reset.stack) ∧
    (∃ t, exec (.ldDtVx 1#4) { State.reset with dt := 5#8, st := 5#8 } = .next t ∧ t.dt ≠ 5#8) ∧
    (∃ t, exec (.ldStVx 1#4) { State.reset with dt := 5#8, st := 5#8 } = .next t ∧ t.st ≠ 5#8) ∧
    (∃ t, exec (.ldB 1#4) State.reset = .next t ∧ t.mem ≠ State.reset.mem) ∧
    (∃ t, exec .cls { State.reset with disp := ⟨64, 32, [0]⟩ } = .next t ∧ t.disp ≠ ⟨64, 32, [0]⟩ ∧ t.render ≠ State.reset.render) ∧
    (∃ t, exec (.ldVxK 1#4) State.reset = .next t ∧ t.latch ≠ State.reset.latch) ∧
    (∃ t, exec .ret State.reset = .next t ∧ t.fault ≠ State.reset.fault) :=
  ⟨⟨_, rfl, by decide⟩, ⟨_, rfl, by decide, by decide⟩, ⟨_, rfl, by decide⟩, ⟨_, rfl, by decide⟩, ⟨_, rfl, by decide⟩,
    ⟨_, rfl, by decide, by decide⟩, ⟨_, rfl, by decide⟩, ⟨_, rfl, by decide⟩⟩
theorem witness_OnlyTheseRegistersChange :
    ∃ t, exec (.addReg 1#4 2#4) (withRegs State.reset [(1#4, 0xFF#8), (2#4, 1#8)]) = .next t ∧
      t.reg 15#4 ≠ (withRegs State.reset [(1#4, 0xFF#8), (2#4, 1#8)]).reg 15#4 := ⟨_, rfl, by decide⟩
theorem witness_HiddenStateNeverObserved : ∃ t, step (fresh 0x00EE) = .next t := ⟨_, rfl⟩

/-- A state with the invariant that is not the reset state: inside a call, something lit, a byte of memory changed. -/
def busyState : State :=
  { fresh 0x00EE with sp := 1#4, stack := State.reset.stack.set 1 0xFFE#16, disp := ⟨64, 32, [0, 2047]⟩, pc := 0x200#16 }

theorem witness_StepKeepsInvariant : busyState.Inv ∧ ∃ t, step busyState = .next t ∧ t.pc = 0x1000#16 :=
  ⟨⟨by decide, by decide, show ∀ j : Nibble, 1 ≤ j.toNat → j.toNat ≤ 1 → (busyState.stackAt j).toNat ≤ 0xFFE by decide,
    by decide, by intro c h; cases h⟩, _, rfl, by decide⟩
theorem witness_ReachableStatesMeetInvariant : ∃ s, constructWith defaultFont 4 2 [0x12#8, 0x00#8] = .next s := ⟨_, rfl⟩
theorem witness_StoreSeenByNextFetch :
    State.dataAddr { State.reset with i := 0xFFE#16 } (1#4 : Nibble).toNat ≤ 0xFFF ∧ 0 + 1 ≤ (1#4 : Nibble).toNat ∧
    (0x200#16 : Word).toNat + 1 < State.dataAddr { State.reset with i := 0xFFE#16 } 0 ∧
    State.dataAddr { State.reset with i := 0xFFE#16 } (1#4 : Nibble).toNat < (0x1000#16 : Word).toNat := by decide
theorem witness_SteadyStatesStay :
    faultedState.steady ∧ State.reset.steady ∧ waitingState.steady ∧ (fresh 0x1200).steady ∧ ∃ t, step (fresh 0x1200) = .next t :=
  ⟨.inl witness_FaultedIsTerminal, .inr (.inl witness_InvalidOpcodeStallsForever), .inr (.inr (.inl ⟨rfl, 1#4, rfl⟩)),
    .inr (.inr (.inr ⟨⟨rfl, rfl⟩, by decide, 0x200#12, by decide, by decide⟩)), _, rfl⟩
theorem witness_RetResult : State.sp { State.reset with sp := 1#4 } ≠ 0#4 ∧ State.reset.sp = 0#4 := by decide
theorem witness_CallResult : State.sp { State.reset with sp := 14#4 } ≠ 15#4 ∧ (0#4 : Nibble) ≠ 15#4 ∧ State.sp faultedState = 15#4 := by decide
theorem witness_destination_is_not_VF : (14#4 : Nibble) ≠ 15#4 := by decide
theorem witness_StoreDigitsResult :
    State.dataAddr { State.reset with i := 0xFFD#16 } 2 ≤ 0xFFF ∧ 0xFFF < State.dataAddr { State.reset with i := 0xFFE#16 } 2 := by decide
theorem witness_StoreRegistersResult :
    State.dataAddr { State.reset with i := 0xFF0#16 } (15#4 : Nibble).toNat ≤ 0xFFF ∧ (15#4 : Nibble).toNat ≤ (15#4 : Nibble).toNat ∧
    0xFFF < State.dataAddr { State.reset with i := 0x1000#16 } (0#4 : Nibble).toNat := by decide
theorem witness_LoadRegistersResult :
    State.dataAddr { State.reset with i := 0xFFF#16 } (0#4 : Nibble).toNat ≤ 0xFFF ∧ (0#4 : Nibble).toNat < (1#4 : Nibble).toNat ∧
    0xFFF < State.dataAddr { State.reset with i := 0xFFF#16 } (1#4 : Nibble).toNat := by decide
theorem witness_ReadDelayTimerResult : (fresh 0xF107).decodesNext ∧ (fresh 0xF107).fetchDecode = .instr (.ldVxDt 1#4) :=
  ⟨⟨rfl, rfl⟩, by decide⟩
theorem witness_WriteTimerResults :
    ((fresh 0xF115).decodesNext ∧ (fresh 0xF115).fetchDecode = .instr (.ldDtVx 1#4) ∧
      ∃ t u, step (fresh 0xF115) = .next t ∧ step t = .next u ∧ ∀ z, t.fetchDecode ≠ .instr (.ldDtVx z)) ∧
    ((fresh 0xF118).decodesNext ∧ (fresh 0xF118).fetchDecode = .instr (.ldStVx 1#4) ∧
      ∃ t u, step (fresh 0xF118) = .next t ∧ step t = .next u ∧ ∀ z, t.fetchDecode ≠ .instr (.ldStVx z)) :=
  ⟨⟨⟨rfl, rfl⟩, by decide, _, _, rfl, rfl, by decide⟩, ⟨rfl, rfl⟩, by decide, _, _, rfl, rfl, by decide⟩
theorem witness_PlotXorsOneCell : 63 < (Display.blank 64 32).width ∧ (31, 0) ≠ (31, 63) := by decide
theorem witness_DrawMatchesParitySpec :
    (State.dataAddr { State.reset with i := 0xFF1#16 } ((15#4 : Nibble).toNat - 1) ≤ 0xFFF ∧ 1 ≤ State.reset.disp.width ∧
      1 ≤ State.reset.disp.height) ∧ (31 < State.reset.disp.height ∧ 63 < State.reset.disp.width) ∧
    ((1#4 : Nibble) ≠ 0#4 ∧ 0xFFF < State.dataAddr { State.reset with i := 0x1000#16 } ((1#4 : Nibble).toNat - 1)) := by decide
/-- The clause for `n = 0`, with I above every cell. -/
theorem witness_DrawMatchesParitySpec_height_zero :
    ((0#4 : Nibble) = 0#4 ∨ State.dataAddr { State.reset with i := 0xFFFF#16 } ((0#4 : Nibble).toNat - 1) ≤ 0xFFF) ∧
    1 ≤ State.reset.disp.width ∧ 1 ≤ State.reset.disp.height ∧ 0xFFF < State.dataAddr { State.reset with i := 0xFFFF#16 } 0 := by decide
theorem witness_ParametersDecideOnlyTheirPoint :
    ((⟨false, .mask⟩ : Config.Params).hasLdVxVy = false ∧ (fresh 0x8120).decodesNext ∧ (fresh 0x8120).canFetch = true ∧
      (fresh 0x8120).fetchWord = 0x8#4 ++ 1#4 ++ 2#4 ++ 0x0#4) ∧
    ((⟨true, .refuse⟩ : Config.Params).keyIndexPolicy = .refuse ∧ (withRegs (fresh 0xE19E) [(1#4, 0x10#8)]).decodesNext ∧
      (withRegs (fresh 0xE19E) [(1#4, 0x10#8)]).canFetch = true ∧
      (withRegs (fresh 0xE19E) [(1#4, 0x10#8)]).fetchWord = 0xE#4 ++ 1#4 ++ 0x9E#8 ∧
      15 < ((withRegs (fresh 0xE19E) [(1#4, 0x10#8)]).reg 1#4).toNat) ∧
    ((∀ x y : Nibble, (fresh 0x8121).fetchWord ≠ 0x8#4 ++ x ++ y ++ 0x0#4) ∧
      ∀ x : Nibble, (fresh 0x8121).fetchWord ≠ 0xE#4 ++ x ++ 0x9E#8 ∧ (fresh 0x8121).fetchWord ≠ 0xE#4 ++ x ++ 0xA1#8) :=
  ⟨⟨rfl, ⟨rfl, rfl⟩, by decide, by decide⟩, ⟨rfl, ⟨rfl, rfl⟩, by decide, by decide, by decide⟩, by decide, by decide⟩
theorem witness_DrawTwiceRestores :
    State.reset.disp.wf ∧ Display.wf ⟨8, 15, [0, 119]⟩ ∧ 8 ≤ State.reset.disp.width ∧ 15 ≤ State.reset.disp.height ∧ (0#4 : Nibble) ≠ 15#4 ∧
    (1#4 : Nibble) ≠ 15#4 ∧ State.reset.dataAddr ((5#4 : Nibble).toNat - 1) ≤ 0xFFF ∧ State.reset.disp.lit = [] := by decide

end Sys2Proof.Tests
end

section
/-! What construction leaves in memory (10_state.md R27): one equation for construction, one read rule for each of its two images. -/

namespace Sys2Proof.Machine

/-- The memory of a fresh instance: the font written at 0, then the ROM at the entry point (R27). -/
def constructedMemory (glyphs : Vector Byte 80) (rom : List Byte) : Memory :=
  (Memory.writeBytes [] 0 glyphs.toList).writeBytes Config.programStart rom

theorem constructWith_eq_next (glyphs : Vector Byte 80) {width height : Nat} {rom : List Byte} (hrom : rom.length ≤ Config.maxRom)
    (hw : 1 ≤ width) (hh : 1 ≤ height) :
    constructWith glyphs width height rom = .next (State.initial width height (constructedMemory glyphs rom)) := by
  rw [constructWith, if_neg (by omega), if_neg (by omega), constructedMemory]

/-- The font ends below the entry point, so copying the ROM keeps it. -/
theorem constructedMemory_read_font (glyphs : Vector Byte 80) (rom : List Byte) {a : Nat} (h : a < 80) :
    (constructedMemory glyphs rom).read a = glyphs[a] := by
  have hlen : glyphs.toList.length = 80 := Vector.length_toList
  have hfont := Memory.read_writeBytes_inside glyphs.toList [] 0 a (by omega) (by simp [Config.memSize])
  rw [constructedMemory, Memory.read_writeBytes_outside _ _ _ _ (.inl (h.trans (by decide)))]
  simpa using hfont

/-- A ROM of at most 3584 bytes ends within the cells, so every byte of it is written. -/
theorem constructedMemory_read_rom (glyphs : Vector Byte 80) {rom : List Byte} (hrom : rom.length ≤ Config.maxRom) {j : Nat}
    (h : j < rom.length) : (constructedMemory glyphs rom).read (Config.programStart + j) = rom[j] :=
  Memory.read_writeBytes_inside rom _ _ j h (Nat.add_le_add_left hrom Config.programStart)

/-- Settles O7: the font and the ROM are two blocks of consecutive writes that do not overlap. -/
theorem fontAndRomPlaced : Obligations.FontAndRomPlaced := by
  intro glyphs width height rom hrom hw hh
  refine ⟨_, constructWith_eq_next glyphs hrom hw hh, ?_, ?_⟩
  · intro d k h _
    exact constructedMemory_read_font glyphs rom h
  · intro j h
    exact constructedMemory_read_rom glyphs hrom h

end Sys2Proof.Machine
end

section
/-! One step, path by path (40_step_cycle.md R81 to R87): an equation for each path a step that is not ignored can take, and what an
instruction does to the timers and to `render`. -/

namespace Sys2Proof.Machine

/-! ### The paths of a step -/

/-- Steps 1 and 2 with the decrement on numbers (R81, R82). -/
theorem State.beginStep_eq (s : State) :
    s.beginStep = { s with render := false, dt := BitVec.ofNat 8 (s.dt.toNat - 1), st := BitVec.ofNat 8 (s.st.toNat - 1) } := by
  rw [State.beginStep, tick_eq, tick_eq]

theorem State.ignoresStep_eq_false {s : State} (hf : s.fault = none) (ha : s.awaitingKey = false) : s.ignoresStep = false := by
  simp [State.ignoresStep, hf, ha]

theorem State.ignoresStep_of_decodesNext {s : State} (h : s.decodesNext) : s.ignoresStep = false :=
  State.ignoresStep_eq_false h.1 (by simp [State.awaitingKey, h.2])

/-- The deferred commit ends the step before the fetch (R83). -/
theorem step_of_pending {s : State} {r k : Nibble} (hf : s.fault = none) (hl : s.latch = .pending r k) :
    step s = .next ((s.beginStep.setReg r (k.setWidth 8)).setLatch .running) := by
  have hi := State.ignoresStep_eq_false hf (by simp [State.awaitingKey, hl])
  simp [step_eq, hi, State.commitPending, hl]

theorem step_of_fetchDecode_instr {s : State} (h : s.decodesNext) {i : Instr} (hd : s.fetchDecode = .instr i) :
    step s = exec i s.beginStep := by
  simp [step_eq, State.ignoresStep_of_decodesNext h, State.commitPending, h.2, hd]

theorem step_of_fetchDecode_invalid {s : State} (h : s.decodesNext) {w : Word} (hd : s.fetchDecode = .invalid w) :
    step s = .next (s.beginStep.reportInvalid w) := by
  simp [step_eq, State.ignoresStep_of_decodesNext h, State.commitPending, h.2, hd]

theorem State.fetchDecode_of_some {s : State} (hc : s.canFetch = true) {i : Instr} (hd : decodeWord s.fetchWord = some i) :
    s.fetchDecode = .instr i := by
  rw [State.fetchDecode_eq, if_pos hc, hd]

theorem State.fetchDecode_of_none {s : State} (hc : s.canFetch = true) (hd : decodeWord s.fetchWord = none) :
    s.fetchDecode = .invalid s.fetchWord := by
  rw [State.fetchDecode_eq, if_pos hc, hd]

theorem State.fetchDecode_of_outOfRange {s : State} (hp : 0xFFF ≤ s.pc.toNat) : s.fetchDecode = .outOfRange s.pc := by
  rw [State.fetchDecode_eq, if_neg (by rw [State.canFetch_iff]; omega)]

/-- A step that is not ignored executes the fetched instruction, or executes none and leaves the timers and `render` as steps 1 and 2 of the
cycle do (R81 to R85). -/
theorem step_executes_or_not {s t : State} (hf : s.fault = none) (ha : s.awaitingKey = false) (h : step s = .next t) :
    (∃ i, s.latch = .running ∧ s.fetchDecode = .instr i ∧ exec i s.beginStep = .next t) ∨
    ((s.latch = .running → ∀ i, s.fetchDecode ≠ .instr i) ∧ t.dt = tick s.dt ∧ t.st = tick s.st ∧ t.render = false) := by
  rcases step_cases s with
    ⟨hig, -⟩ | ⟨-, r, k, hl, hs⟩ | ⟨-, hl, hp, hs⟩ | ⟨-, hl, hp, hn, hs⟩ | ⟨-, hl, hp, i, hi, hs⟩
  · rw [← State.ignoresStep_iff, State.ignoresStep_eq_false hf ha] at hig
    cases hig
  · cases hs.symm.trans h
    exact .inr ⟨by simp [hl], rfl, rfl, rfl⟩
  · cases hs.symm.trans h
    exact .inr ⟨by simp [State.fetchDecode_of_outOfRange hp], rfl, rfl, rfl⟩
  · cases hs.symm.trans h
    exact .inr ⟨by simp [State.fetchDecode_of_none (s.canFetch_iff.mpr hp) hn], rfl, rfl, rfl⟩
  · exact .inl ⟨i, hl, State.fetchDecode_of_some (s.canFetch_iff.mpr hp) hi, hs.symm.trans h⟩

/-! ### Timers and `render` under `exec` -/

@[simp] theorem State.drawSprite_dt (s : State) (x y n : Nibble) : (s.drawSprite x y n).dt = s.dt := rfl
@[simp] theorem State.drawSprite_st (s : State) (x y n : Nibble) : (s.drawSprite x y n).st = s.st := rfl
@[simp] theorem State.drawSprite_render (s : State) (x y n : Nibble) : (s.drawSprite x y n).render = true := rfl
@[simp] theorem State.drawSprite_fault (s : State) (x y n : Nibble) : (s.drawSprite x y n).fault = s.fault := rfl

/-- A checked write ends in the state it was to make, or nothing but the fault latch changes (R47, R202). -/
theorem State.checkData_next_cases {s k t : State} {top : Nat} (h : s.checkData top (.next k) = .next t) :
    t = k ∨ ∃ c, t = { s with fault := some c } := by
  rcases s.checkData_cases top (.next k) with ⟨-, hk⟩ | ⟨-, hk⟩ <;> rw [hk] at h <;> cases h
  · exact .inr ⟨_, rfl⟩
  · exact .inl rfl

/-- DRW draws, or nothing but the fault latch changes (R155, R202). -/
theorem exec_drw_cases {x y n : Nibble} {s t : State} (h : exec (.drw x y n) s = .next t) :
    t = s.drawSprite x y n ∨ ∃ c, t = { s with fault := some c } := by
  rw [exec, execDrw] at h
  split at h
  · cases h; exact .inl rfl
  · exact State.checkData_next_cases h

/-- Only Fx15 and Fx18 write a timer, only CLS and a DRW that draws write `render` (R81, R82). -/
theorem exec_timers_render_cases {i : Instr} {s t : State} (h : exec i s = .next t) :
    (t.dt = s.dt ∧ t.st = s.st ∧ t.render = s.render ∧ i ≠ .cls ∧ ∀ x y n, i = .drw x y n → t.fault ≠ none) ∨
    (∃ x, i = .ldDtVx x ∧ t = (s.setDt (s.reg x)).advance 2#16) ∨
    (∃ x, i = .ldStVx x ∧ t = (s.setSt (s.reg x)).advance 2#16) ∨
    (i = .cls ∧ t = ((s.setDisp s.disp.clear).setRender true).advance 2#16) ∨
    (∃ x y n, i = .drw x y n ∧ t = s.drawSprite x y n) := by
  cases i
  case ldDtVx x => cases h; exact .inr (.inl ⟨x, rfl, rfl⟩)
  case ldStVx x => cases h; exact .inr (.inr (.inl ⟨x, rfl, rfl⟩))
  case cls => cases h; exact .inr (.inr (.inr (.inl ⟨rfl, rfl⟩)))
  case drw x y n =>
    rcases exec_drw_cases h with rfl | ⟨c, rfl⟩
    · exact .inr (.inr (.inr (.inr ⟨x, y, n, rfl, rfl⟩)))
    · exact .inl (by simp)
  all_goals left
  case ret => simp only [exec, execRet] at h; split at h <;> cases h <;> simp
  case call => simp only [exec, execCall] at h; split at h <;> cases h <;> simp
  case ldB => rcases State.checkData_next_cases h with rfl | ⟨c, rfl⟩ <;> simp
  case ldMemVx => rcases State.checkData_next_cases h with rfl | ⟨c, rfl⟩ <;> simp
  case ldVxMem =>
    rcases State.checkData_next_cases h with rfl | ⟨c, rfl⟩
    · rw [State.loadRegs_eq]; simp
    · simp
  case rnd => cases h; rw [State.afterDraw_eq]; simp
  all_goals cases h; simp

theorem exec_dt_cases {i : Instr} {s t : State} (h : exec i s = .next t) :
    t.dt = s.dt ∨ ∃ x, i = .ldDtVx x ∧ t.dt = s.reg x := by
  rcases exec_timers_render_cases h with ⟨hdt, -⟩ | ⟨x, rfl, rfl⟩ | ⟨x, rfl, rfl⟩ | ⟨rfl, rfl⟩ | ⟨x, y, n, rfl, rfl⟩
  case inr.inl => exact .inr ⟨x, rfl, rfl⟩
  case inl => exact .inl hdt
  all_goals exact .inl rfl

theorem exec_st_cases {i : Instr} {s t : State} (h : exec i s = .next t) :
    t.st = s.st ∨ ∃ x, i = .ldStVx x ∧ t.st = s.reg x := by
  rcases exec_timers_render_cases h with ⟨-, hst, -⟩ | ⟨x, rfl, rfl⟩ | ⟨x, rfl, rfl⟩ | ⟨rfl, rfl⟩ | ⟨x, y, n, rfl, rfl⟩
  case inr.inr.inl => exact .inr ⟨x, rfl, rfl⟩
  case inl => exact .inl hst
  all_goals exact .inl rfl

/-- From a state with `render` clear and no fault, `render` shows that CLS or DRW completed (R81, R155). -/
theorem exec_render_iff {i : Instr} {s t : State} (hr : s.render = false) (hf : s.fault = none) (h : exec i s = .next t) :
    t.render = true ↔ i = .cls ∨ (∃ x y n, i = .drw x y n) ∧ t.fault = none := by
  rcases exec_timers_render_cases h with
    ⟨-, -, hkeep, hcls, hdrw⟩ | ⟨x, rfl, rfl⟩ | ⟨x, rfl, rfl⟩ | ⟨rfl, rfl⟩ | ⟨x, y, n, rfl, rfl⟩
  case inl =>
    have hnone : ¬((∃ x y n, i = .drw x y n) ∧ t.fault = none) := fun ⟨⟨x, y, n, hi⟩, ht⟩ => hdrw x y n hi ht
    simp [hkeep, hr, hcls, hnone]
  all_goals simp [hr, hf]

/-! ### The key wait -/

@[simp] theorem State.reg_setKey (s : State) (j q : Nibble) (b : Bool) : (s.setKey j b).reg q = s.reg q := rfl

/-- A press while waiting sets the key's flag and latches the write of the key (R161). -/
theorem State.keyPress_of_awaitingKey {s : State} {r : Nibble} (hf : s.fault = none) (hl : s.latch = .awaitingKey r) (k : Nibble) :
    s.keyPress k = (s.setKey k true).setLatch (.pending r k) := by
  simp [State.keyPress, hf, hl, Latch.onPress]

/-- The step after the press that ends a wait commits the key (R83, R92). -/
theorem step_keyPress_of_awaitingKey {s : State} {r : Nibble} (hf : s.fault = none) (hl : s.latch = .awaitingKey r) (k : Nibble) :
    step (s.keyPress k) = .next (((s.setKey k true).beginStep.setReg r (k.setWidth 8)).setLatch .running) := by
  rw [State.keyPress_of_awaitingKey hf hl, step_of_pending (by simpa using hf) (State.setLatch_latch _ _)]
  rfl

end Sys2Proof.Machine
end

section
/-! The statements about the step cycle (40_step_cycle.md), from the equations of the paths of a step. -/

namespace Sys2Proof.Machine

/-- Settles O10: the state `exec` is given is the one after steps 1 and 2, and an invalid word is only reported. -/
theorem stepRunsDecodedInstruction : Obligations.StepRunsDecodedInstruction := by
  intro s hf hl hp
  have hrun : s.decodesNext := ⟨hf, hl⟩
  have hc := s.canFetch_iff.mpr hp
  refine ⟨?_, ?_, ?_⟩
  · intro i hd
    rw [step_of_fetchDecode_instr hrun (State.fetchDecode_of_some hc hd), State.beginStep_eq]
  · intro i rest hd
    obtain ⟨j, hj, hji⟩ := Option.map_eq_some_iff.mp hd
    cases hji
    exact ⟨hj, rfl⟩
  · intro hd
    exact ⟨_, step_of_fetchDecode_invalid hrun (State.fetchDecode_of_none hc hd), rfl⟩

/-- Settles O12: the commit is one register write and one latch write on the state after steps 1 and 2. -/
theorem commitStepWritesKey : Obligations.CommitStepWritesKey := by
  intro s r k hf hl
  refine ⟨_, step_of_pending hf hl, ?_, ?_, fun _ => rfl, ?_⟩
  · rw [State.reg_setLatch, State.reg_setReg_self, BitVec.toNat_setWidth_of_le (by decide)]
  · intro q hq
    simp [State.reg_setReg, List.ne_of_not_mem_cons hq]
  · rw [State.beginStep_eq]; rfl

/-- Settles O15: the timers are decremented before anything is executed, and of the instructions only Fx15 and Fx18 then write one. -/
theorem timersDecrementOncePerStep : Obligations.TimersDecrementOncePerStep := by
  intro s t hf ha h
  refine ⟨?_, ?_, ?_, ?_⟩
  · rcases step_executes_or_not hf ha h with ⟨i, hl, hd, he⟩ | ⟨-, hdt, -⟩
    · rcases exec_dt_cases he with hdt | ⟨x, rfl, hdt⟩
      · exact .inl (hdt ▸ tick_toNat s.dt)
      · exact .inr ⟨x, hl, hd, hdt⟩
    · exact .inl (hdt ▸ tick_toNat s.dt)
  · rcases step_executes_or_not hf ha h with ⟨i, hl, hd, he⟩ | ⟨-, -, hst, -⟩
    · rcases exec_st_cases he with hst | ⟨x, rfl, hst⟩
      · exact .inl (hst ▸ tick_toNat s.st)
      · exact .inr ⟨x, hl, hd, hst⟩
    · exact .inl (hst ▸ tick_toNat s.st)
  · intro x hl hd
    cases (step_of_fetchDecode_instr ⟨hf, hl⟩ hd).symm.trans h
    rfl
  · intro x hl hd
    cases (step_of_fetchDecode_instr ⟨hf, hl⟩ hd).symm.trans h
    rfl

/-- Settles O16: step 1 clears `render`, and of the instructions only CLS and a DRW that draws set it. -/
theorem renderOnlyAfterClsOrDrw : Obligations.RenderOnlyAfterClsOrDrw := by
  intro s t hf ha h
  rcases step_executes_or_not hf ha h with ⟨i, hl, hd, he⟩ | ⟨hnone, -, -, hr⟩
  · simpa [hl, hd] using exec_render_iff s.beginStep_render hf he
  · constructor
    · simp [hr]
    · rintro ⟨hl, hd | ⟨⟨x, y, n, hd⟩, -⟩⟩
      · exact absurd hd (hnone hl _)
      · exact absurd hd (hnone hl _)

/-- Settles O19: Fx0A only waits, the press latches the write, and the commit changes no byte of memory and no PC, so the step after it decodes
where Fx0A left off. -/
theorem keyWaitRoundTrip : Obligations.KeyWaitRoundTrip := by
  intro s r k hrun hc hd
  have hf : s.fault = none := hrun.1
  have hwait : step s = .next ((s.beginStep.setLatch (.awaitingKey r)).advance 2#16) :=
    step_of_fetchDecode_instr hrun (State.fetchDecode_of_some hc hd)
  have hcommit := step_keyPress_of_awaitingKey (s := (s.beginStep.setLatch (.awaitingKey r)).advance 2#16) hf rfl k
  refine ⟨_, _, hwait, rfl, rfl, rfl, ?_, hcommit, ?_, ?_, rfl, rfl, tick_toNat _, tick_toNat _, fun _ => rfl, ?_⟩
  · rw [State.keyPress_of_awaitingKey (by simpa using hf) rfl, State.setLatch_latch]
  · rw [State.reg_setLatch, State.reg_setReg_self, BitVec.toNat_setWidth_of_le (by decide)]
  · intro q hq
    simp [State.reg_setReg, List.ne_of_not_mem_cons hq]
  · intro i hcf hdi
    exact step_of_fetchDecode_instr ⟨by simpa using hf, rfl⟩ (State.fetchDecode_of_some hcf hdi)

end Sys2Proof.Machine
end

section
/-! The two shapes of an instruction that writes registers and goes on to the next one (42_skip_load_alu.md R114 to R125): a result into `V[x]`,
and a result into `V[x]` followed by the flag into VF (R116). What each leaves, said once, and the statements on LD, ADD, SUB and SUBN. -/

namespace Sys2Proof.Machine

/-! ### The two shapes -/

theorem Completes.mono {i : Instr} {s : State} {P Q : State → Prop} (h : Completes i s P) (hPQ : ∀ t, P t → Q t) : Completes i s Q := by
  obtain ⟨t, ht, hP⟩ := h
  exact ⟨t, ht, hPQ t hP⟩

/-- A result into `V[x]`, then PC two further. -/
theorem completes_of_setReg {i : Instr} {s : State} {x : Nibble} {b : Byte} (h : exec i s = .next ((s.setReg x b).advance 2#16)) :
    Completes i s fun t => t.reg x = b ∧ sameRegsExcept [x] s t ∧ t.pc = s.pc + 2#16 ∧ onlyRegsAndPc s t := by
  refine ⟨_, h, ?_, ?_, rfl, rfl, fun _ => rfl⟩
  · rw [State.reg_advance, State.reg_setReg_self]
  · intro q hq
    rw [State.reg_advance, State.reg_setReg, if_neg (List.ne_of_not_mem_cons hq)]

/-- A result into `V[x]`, the flag into VF, then PC two further: the flag is written last, so the result stands only where `x` is not 15 (R11,
R116). -/
theorem completes_of_setResultThenFlag {i : Instr} {s : State} {x : Nibble} {a : Byte} {b : Bool}
    (h : exec i s = .next ((s.setResultThenFlag x a b).advance 2#16)) :
    Completes i s fun t => (x ≠ 15#4 → t.reg x = a) ∧ t.reg 15#4 = flagByte b ∧ sameRegsExcept [x, 15#4] s t ∧
      t.pc = s.pc + 2#16 ∧ onlyRegsAndPc s t := by
  refine ⟨_, h, ?_, ?_, ?_, rfl, rfl, fun _ => rfl⟩
  · intro hx
    rw [State.reg_advance, State.reg_setResultThenFlag, if_neg hx, if_pos rfl]
  · rw [State.reg_advance, State.reg_setResultThenFlag, if_pos rfl]
  · intro q hq
    obtain ⟨hqx, hqf⟩ : q ≠ x ∧ q ≠ 15#4 := by simpa using hq
    rw [State.reg_advance, State.reg_setResultThenFlag, if_neg hqf, if_neg hqx]

/-! ### Results and flags on numbers -/

theorem flagByte_carryOut (a b : Byte) : flagByte (carryOut a b) = if a.toNat + b.toNat > 255 then 1#8 else 0#8 := by
  simp only [flagByte, carryOut, decide_eq_true_eq]

theorem flagByte_noBorrow (a b : Byte) : flagByte (noBorrow a b) = if a.toNat ≥ b.toNat then 1#8 else 0#8 := by
  simp only [flagByte, noBorrow, decide_eq_true_eq]

/-- The 8-bit difference is the integer difference modulo 256 (R122, R124). -/
theorem toNat_sub_eq_emod (a b : Byte) : ((a - b).toNat : Int) = (a.toNat - b.toNat : Int) % 256 := by
  have ha := a.isLt
  have hb := b.isLt
  rw [BitVec.toNat_sub]
  omega

/-! ### The instructions -/

theorem decodeWord_ldImm (x : Nibble) (kk : Byte) : decodeWord (0x6#4 ++ x ++ kk) = some (.ldImm x kk) := by
  simp [decodeWord, decodeWordWith]

theorem decodeWord_addImm (x : Nibble) (kk : Byte) : decodeWord (0x7#4 ++ x ++ kk) = some (.addImm x kk) := by
  simp [decodeWord, decodeWordWith]

theorem exec_ldImm (x : Nibble) (kk : Byte) (s : State) : exec (.ldImm x kk) s = .next ((s.setReg x kk).advance 2#16) := rfl

theorem exec_addImm (x : Nibble) (kk : Byte) (s : State) :
    exec (.addImm x kk) s = .next ((s.setReg x (s.reg x + kk)).advance 2#16) := rfl

theorem exec_addReg (x y : Nibble) (s : State) :
    exec (.addReg x y) s = .next ((s.setResultThenFlag x (s.reg x + s.reg y) (carryOut (s.reg x) (s.reg y))).advance 2#16) := rfl

theorem exec_subReg (x y : Nibble) (s : State) :
    exec (.subReg x y) s = .next ((s.setResultThenFlag x (s.reg x - s.reg y) (noBorrow (s.reg x) (s.reg y))).advance 2#16) := rfl

theorem exec_subnReg (x y : Nibble) (s : State) :
    exec (.subnReg x y) s = .next ((s.setResultThenFlag x (s.reg y - s.reg x) (noBorrow (s.reg y) (s.reg x))).advance 2#16) := rfl

/-- SUB and SUBN differ only in which operand is the minuend `a` and which the subtrahend `b` (R122, R124). -/
theorem completes_of_difference {i : Instr} {s : State} {x : Nibble} {a b : Byte}
    (h : exec i s = .next ((s.setResultThenFlag x (a - b) (noBorrow a b)).advance 2#16)) :
    Completes i s fun t => (x ≠ 15#4 → ((t.reg x).toNat : Int) = (a.toNat - b.toNat : Int) % 256) ∧
      t.reg 15#4 = (if a.toNat ≥ b.toNat then 1#8 else 0#8) ∧ sameRegsExcept [x, 15#4] s t ∧
      t.pc = s.pc + 2#16 ∧ onlyRegsAndPc s t := by
  refine (completes_of_setResultThenFlag h).mono ?_
  rintro t ⟨hresult, hflag, hframe⟩
  refine ⟨fun hx => ?_, ?_, hframe⟩
  · rw [hresult hx, toNat_sub_eq_emod]
  · rw [hflag, flagByte_noBorrow]

/-! ### The statements -/

/-- Settles O44: the result is the 8-bit sum of the two values read, the flag its carry, and the flag is written last. -/
theorem addRegisterResult : Obligations.AddRegisterResult := by
  intro x y s
  refine (completes_of_setResultThenFlag (exec_addReg x y s)).mono ?_
  rintro t ⟨hresult, hflag, hframe⟩
  refine ⟨fun hx => ?_, ?_, hframe⟩
  · rw [hresult hx, BitVec.toNat_add]
  · rw [hflag, flagByte_carryOut]

/-- Settles O45: both write a difference and its no-borrow flag, with the operands exchanged. -/
theorem subtractResults : Obligations.SubtractResults := by
  intro x y s
  exact ⟨completes_of_difference (exec_subReg x y s), completes_of_difference (exec_subnReg x y s)⟩

/-- Settles O40: one register write of the immediate. -/
theorem loadImmediateResult : Obligations.LoadImmediateResult := by
  intro x kk s
  exact ⟨decodeWord_ldImm x kk, completes_of_setReg (exec_ldImm x kk s)⟩

/-- Settles O41: one register write of the 8-bit sum, and no write of VF as a flag. -/
theorem addImmediateResult : Obligations.AddImmediateResult := by
  intro x kk s
  refine ⟨decodeWord_addImm x kk, (completes_of_setReg (exec_addImm x kk s)).mono ?_⟩
  rintro t ⟨hsum, hframe⟩
  exact ⟨by rw [hsum, BitVec.toNat_add], hframe⟩

end Sys2Proof.Machine
end

section
/-! The shape of an instruction that writes I alone and goes on to the next one (43_memory_index.md R140 to R142), said once, and the statement
on Annn. -/

namespace Sys2Proof.Machine

/-- A value into I, then PC two further. -/
theorem completes_of_setI {i : Instr} {s : State} {w : Word} (h : exec i s = .next ((s.setI w).advance 2#16)) :
    Completes i s fun t => t.i = w ∧ t.pc = s.pc + 2#16 ∧ t = { s with i := t.i, pc := t.pc } ∧ sameMemory s t :=
  ⟨_, h, rfl, rfl, rfl, fun _ => rfl⟩

/-- Every 12-bit address fits the 16 bits of I and PC. -/
theorem zextAddr_toNat (nnn : Addr) : (zextAddr nnn).toNat = nnn.toNat :=
  BitVec.toNat_setWidth_of_le (by decide)

theorem decodeWord_ldI (nnn : Addr) : decodeWord (0xA#4 ++ nnn) = some (.ldI nnn) := by
  simp [decodeWord, decodeWordWith]

theorem exec_ldI (nnn : Addr) (s : State) : exec (.ldI nnn) s = .next ((s.setI (zextAddr nnn)).advance 2#16) := rfl

/-- Settles O48: one write of I, with `nnn` zero-extended. -/
theorem loadIndexResult : Obligations.LoadIndexResult := by
  intro nnn s
  refine ⟨decodeWord_ldI nnn, (completes_of_setI (exec_ldI nnn s)).mono ?_⟩
  rintro t ⟨hi, hframe⟩
  exact ⟨by rw [hi, zextAddr_toNat], hframe⟩

end Sys2Proof.Machine
end

section
/-! The timer instructions (44_timer_input.md R150 to R152): their words and meanings, what a step does to a timer that it does not load, and the
statements on Fx07, Fx15 and Fx18. -/

namespace Sys2Proof.Machine

/-! ### Words and meanings -/

/-- The major nibble F leaves the choice to the low byte (R67). -/
theorem decodeWord_familyF (x : Nibble) (kk : Byte) : decodeWord (0xF#4 ++ x ++ kk) = decodeFamilyF (0xF#4 ++ x ++ kk) := by
  simp [decodeWord, decodeWordWith]

theorem decodeWord_ldVxDt (x : Nibble) : decodeWord (0xF#4 ++ x ++ 0x07#8) = some (.ldVxDt x) := by
  simp [decodeWord_familyF, decodeFamilyF]

theorem decodeWord_ldDtVx (x : Nibble) : decodeWord (0xF#4 ++ x ++ 0x15#8) = some (.ldDtVx x) := by
  simp [decodeWord_familyF, decodeFamilyF]

theorem decodeWord_ldStVx (x : Nibble) : decodeWord (0xF#4 ++ x ++ 0x18#8) = some (.ldStVx x) := by
  simp [decodeWord_familyF, decodeFamilyF]

theorem exec_ldVxDt (x : Nibble) (s : State) : exec (.ldVxDt x) s = .next ((s.setReg x s.dt).advance 2#16) := rfl

theorem exec_ldDtVx (x : Nibble) (s : State) : exec (.ldDtVx x) s = .next ((s.setDt (s.reg x)).advance 2#16) := rfl

theorem exec_ldStVx (x : Nibble) (s : State) : exec (.ldStVx x) s = .next ((s.setSt (s.reg x)).advance 2#16) := rfl

/-! ### A timer over one step -/

theorem State.awaitingKey_of_decodesNext {s : State} (h : s.decodesNext) : s.awaitingKey = false := by
  simp [State.awaitingKey, h.2]

/-- A step that decodes and does not execute Fx15 ends with DT one lower, clamped at 0 (R82). -/
theorem step_dt_of_not_ldDtVx {s t : State} (h : step s = .next t) (hrun : s.decodesNext)
    (hn : ∀ z, s.fetchDecode ≠ .instr (.ldDtVx z)) : t.dt.toNat = s.dt.toNat - 1 := by
  obtain ⟨hdt, -⟩ := timersDecrementOncePerStep s t hrun.1 (State.awaitingKey_of_decodesNext hrun) h
  exact hdt.resolve_right fun ⟨z, _, hd, _⟩ => hn z hd

/-- A step that decodes and does not execute Fx18 ends with ST one lower, clamped at 0 (R82). -/
theorem step_st_of_not_ldStVx {s t : State} (h : step s = .next t) (hrun : s.decodesNext)
    (hn : ∀ z, s.fetchDecode ≠ .instr (.ldStVx z)) : t.st.toNat = s.st.toNat - 1 := by
  obtain ⟨-, hst, -⟩ := timersDecrementOncePerStep s t hrun.1 (State.awaitingKey_of_decodesNext hrun) h
  exact hst.resolve_right fun ⟨z, _, hd, _⟩ => hn z hd

/-! ### The statements -/

/-- Settles O54: the write follows the decrement of its own step, and the state it leaves decodes next, so the following step is the first to
decrement the value. -/
theorem writeTimerResults : Obligations.WriteTimerResults := by
  intro x s
  refine ⟨⟨decodeWord_ldDtVx x, ⟨_, exec_ldDtVx x s, rfl, rfl, rfl, fun _ => rfl⟩, ?_⟩,
    ⟨decodeWord_ldStVx x, ⟨_, exec_ldStVx x s, rfl, rfl, rfl, fun _ => rfl⟩, ?_⟩⟩
  · intro hrun hd
    have hstep : step s = .next ((s.beginStep.setDt (s.reg x)).advance 2#16) := step_of_fetchDecode_instr hrun hd
    exact ⟨_, hstep, rfl, fun u hu hn => step_dt_of_not_ldDtVx hu hrun hn⟩
  · intro hrun hd
    have hstep : step s = .next ((s.beginStep.setSt (s.reg x)).advance 2#16) := step_of_fetchDecode_instr hrun hd
    exact ⟨_, hstep, rfl, fun u hu hn => step_st_of_not_ldStVx hu hrun hn⟩

/-- Settles O53: one register write of DT, which within a step is the DT that step 2 has decremented. -/
theorem readDelayTimerResult : Obligations.ReadDelayTimerResult := by
  intro x s
  refine ⟨decodeWord_ldVxDt x, completes_of_setReg (exec_ldVxDt x s), ?_⟩
  intro hrun hd
  refine ⟨_, (step_of_fetchDecode_instr hrun hd).trans (exec_ldVxDt x s.beginStep), ?_⟩
  rw [State.reg_advance, State.reg_setReg_self, State.beginStep_dt, tick_toNat]

end Sys2Proof.Machine
end

section
/-! One source bit on the display, and the two loops of the sprite engine unrolled by one row (46_sprite_engine.md R172 to R176). -/

namespace Sys2Proof.Machine

/-! ### One source bit -/

/-- Read after plot: the target cell holds old XOR bit, every other cell its old value (R173). -/
theorem plot_cell (acc : Display × Bool) (bit : Bool) {r c r' c' : Nat} (hc : c < acc.1.width) (hc' : c' < acc.1.width) :
    (plot bit r c acc).1.cell r' c' = if r' = r ∧ c' = c then Bool.xor (acc.1.cell r c) bit else acc.1.cell r' c' := by
  rw [plot, Display.cell_setCell _ _ _ _ _ _ hc hc', Bool.bne_eq_xor]

/-- The running collision flag accumulates old AND bit (R173). -/
theorem plot_flag (acc : Display × Bool) (bit : Bool) (r c : Nat) :
    (plot bit r c acc).2 = (acc.2 || (acc.1.cell r c && bit)) := rfl

/-! ### The two loops -/

/-- One row of the engine plots eight bits whose targets depend on the display's dimensions alone (R172). -/
theorem blitRow_eq_foldl_plot (b : Byte) (x0 ry : Nat) (acc : Display × Bool) :
    blitRow b x0 ry acc =
      (List.range 8).foldl (fun a col => plot (b.getLsbD (7 - col)) (ry % acc.1.height) ((x0 + col) % acc.1.width) a) acc := by
  rw [blitRow, blitColumns_eq, plotAll, List.foldl_map]

theorem blit_zero (d : Display) (m : Memory) (base x0 y0 : Nat) : blit d m base x0 y0 0 = (d, false) := rfl

/-- The outer loop: the last row is blitted onto what the rows above it left (R176). -/
theorem blit_succ (d : Display) (m : Memory) (base x0 y0 n : Nat) :
    blit d m base x0 y0 (n + 1) = blitRow (m.read (base + n)) x0 (y0 + n) (blit d m base x0 y0 n) := by
  simp only [blit, List.range_succ, List.foldl_append, List.foldl_cons, List.foldl_nil]

/-! ### The statement -/

/-- Settles O57: plotting is one cell write, so reading after it is decided by whether the cell is the target. A draw keeps the dimensions, so
each row's targets are those of the display it started from. -/
theorem plotXorsOneCell : Obligations.PlotXorsOneCell := by
  intro d bit collision r c hc
  refine ⟨?_, plot_flag _ _ _ _, ?_, plot_width _ _ _ _, plot_height _ _ _ _, ?_⟩
  · rw [plot_cell (d, collision) bit hc hc, if_pos ⟨rfl, rfl⟩]
  · intro r' c' hc' hne
    rw [plot_cell (d, collision) bit hc hc', if_neg (by simpa using hne)]
  · intro m base x0 y0
    refine ⟨blit_zero d m base x0 y0, fun n => ?_⟩
    rw [blit_succ, blitRow_eq_foldl_plot, blit_width, blit_height]

end Sys2Proof.Machine
end

section
/-! The decoder against the encoder, the opcode map and the list of invalid words (30_encoding.md R60 to R72). -/

namespace Sys2Proof

/-! ### Decoding an encoding -/

/-- The decoder inverts the encoder on the well-formed instructions, family by family (R65, R67). -/
theorem decodeWordWith_encode {hasLd : Bool} {i : Instr} (h : i.wfWith hasLd = true) :
    decodeWordWith hasLd (encode i) = some i := by
  cases i
  case cls | ret => rfl
  case jp | call | ldI => simp [encode, decodeWordWith]
  case jpV0 x nnn =>
    have hx : x = addrTopNibble nnn := by simpa [Instr.wfWith] using h
    simp [encode, decodeWordWith, hx]
  case seImm | sneImm | ldImm | addImm | rnd | drw => simp [encode, decodeWordWith]
  case seReg | sneReg => simp [encode, decodeWordWith, decodeFixedZero]
  case ldReg =>
    have hld : hasLd = true := h
    simp [encode, decodeWordWith, decodeFamily8, hld]
  case orReg | andReg | xorReg | addReg | subReg | shr | subnReg | shl => simp [encode, decodeWordWith, decodeFamily8]
  case skp | sknp => simp [encode, decodeWordWith, decodeFamilyE]
  case ldVxDt | ldVxK | ldDtVx | ldStVx | addI | ldF | ldB | ldMemVx | ldVxMem => simp [encode, decodeWordWith, decodeFamilyF]

/-- The decoder of the machine on the word of a well-formed instruction. -/
theorem decodeWord_encode {i : Instr} (h : i.wf = true) : decodeWord (encode i) = some i := decodeWordWith_encode h

/-- Settles O2: the decoder inverts the encoder, and a word is the two bytes it is stored as. -/
theorem decodeEncodeRoundTrip : Obligations.DecodeEncodeRoundTrip := by
  refine ⟨fun _ _ => decodeWordWith_encode, fun i rest h => ?_⟩
  simp [encodeBytes, decode, decodeWord_encode h]

/-! ### Encoding what decodes -/

section
variable {w : Word} {a n : Nibble} {kk : Byte}

theorem append_fieldNnn (ha : (fieldN1 w).toNat = a.toNat) : a ++ fieldNnn w = w := by
  apply BitVec.eq_of_toNat_eq
  rw [fieldN1_toNat] at ha
  rw [toNat_append_eq, fieldNnn_toNat]; omega

theorem append_fieldX_fieldKk (ha : (fieldN1 w).toNat = a.toNat) : a ++ fieldX w ++ fieldKk w = w := by
  apply BitVec.eq_of_toNat_eq
  rw [fieldN1_toNat] at ha
  rw [toNat_append_eq, toNat_append_eq, fieldX_toNat, fieldKk_toNat]; omega

theorem append_fieldX_fieldY_fieldN (ha : (fieldN1 w).toNat = a.toNat) : a ++ fieldX w ++ fieldY w ++ fieldN w = w := by
  apply BitVec.eq_of_toNat_eq
  rw [fieldN1_toNat] at ha
  rw [toNat_append_eq, toNat_append_eq, toNat_append_eq, fieldX_toNat, fieldY_toNat, fieldN_toNat]; omega

/-- A word whose low byte is fixed is its major nibble, `x` and that byte. -/
theorem append_fieldX_of_fieldKk (ha : (fieldN1 w).toNat = a.toNat) (hk : fieldKk w = kk) : a ++ fieldX w ++ kk = w :=
  hk ▸ append_fieldX_fieldKk ha

/-- A word whose low nibble is fixed is its major nibble, `x`, `y` and that nibble. -/
theorem append_fieldX_fieldY_of_fieldN (ha : (fieldN1 w).toNat = a.toNat) (hn : (fieldN w).toNat = n.toNat) :
    a ++ fieldX w ++ fieldY w ++ n = w :=
  BitVec.eq_of_toNat_eq hn ▸ append_fieldX_fieldY_fieldN ha

end

/-- In Bnnn the register index is the top nibble of the address field (R74, R104). -/
theorem fieldX_eq_addrTopNibble (w : Word) : fieldX w = addrTopNibble (fieldNnn w) := by
  apply BitVec.eq_of_toNat_eq
  rw [addrTopNibble, BitVec.extractLsb'_toNat, Nat.shiftRight_eq_div_pow, fieldX_toNat, fieldNnn_toNat]; omega

theorem encode_of_decodeFamily0 {hasLd : Bool} {w : Word} {i : Instr} (h : decodeFamily0 w = some i) :
    i.wfWith hasLd = true ∧ encode i = w := by
  unfold decodeFamily0 at h
  split_ifs at h with h1 h2 <;> cases h
  · exact ⟨rfl, h1.symm⟩
  · exact ⟨rfl, h2.symm⟩

theorem encode_of_decodeFamily8 {hasLd : Bool} {w : Word} {i : Instr} (ha : (fieldN1 w).toNat = 8)
    (h : decodeFamily8 hasLd w = some i) : i.wfWith hasLd = true ∧ encode i = w := by
  unfold decodeFamily8 at h
  split at h
  case h_1 hn =>
    split_ifs at h with hld
    cases h
    exact ⟨hld, append_fieldX_fieldY_of_fieldN ha hn⟩
  case h_10 => cases h
  all_goals
    rename_i hn
    cases h
    exact ⟨rfl, append_fieldX_fieldY_of_fieldN ha hn⟩

theorem encode_of_decodeFamilyE {hasLd : Bool} {w : Word} {i : Instr} (ha : (fieldN1 w).toNat = 0xE)
    (h : decodeFamilyE w = some i) : i.wfWith hasLd = true ∧ encode i = w := by
  unfold decodeFamilyE at h
  split_ifs at h with h1 h2 <;> cases h
  · exact ⟨rfl, append_fieldX_of_fieldKk ha h1⟩
  · exact ⟨rfl, append_fieldX_of_fieldKk ha h2⟩

theorem encode_of_decodeFamilyF {hasLd : Bool} {w : Word} {i : Instr} (ha : (fieldN1 w).toNat = 0xF)
    (h : decodeFamilyF w = some i) : i.wfWith hasLd = true ∧ encode i = w := by
  unfold decodeFamilyF at h
  split_ifs at h <;> cases h
  all_goals
    rename_i hk
    exact ⟨rfl, append_fieldX_of_fieldKk ha hk⟩

/-- What decodes is well formed and encodes to the word it came from, arm by arm of the dispatch (R65, R67). -/
theorem encode_of_decodeWordWith {hasLd : Bool} {w : Word} {i : Instr} (h : decodeWordWith hasLd w = some i) :
    i.wfWith hasLd = true ∧ encode i = w := by
  unfold decodeWordWith at h
  split at h <;> rename_i ha
  case h_1 => exact encode_of_decodeFamily0 h
  case h_2 | h_3 | h_11 => cases h; exact ⟨rfl, append_fieldNnn ha⟩
  case h_4 | h_5 | h_7 | h_8 | h_13 => cases h; exact ⟨rfl, append_fieldX_fieldKk ha⟩
  case h_6 | h_10 =>
    obtain ⟨hn, hi⟩ := Option.ite_none_right_eq_some.mp h
    cases hi
    exact ⟨rfl, append_fieldX_fieldY_of_fieldN ha (congrArg BitVec.toNat hn)⟩
  case h_9 => exact encode_of_decodeFamily8 ha h
  case h_12 => cases h; exact ⟨beq_iff_eq.mpr (fieldX_eq_addrTopNibble w), append_fieldNnn ha⟩
  case h_14 => cases h; exact ⟨rfl, append_fieldX_fieldY_fieldN ha⟩
  case h_15 => exact encode_of_decodeFamilyE ha h
  case h_16 => exact encode_of_decodeFamilyF ha h
  case h_17 => cases h

/-- Settles O3: every arm of the decoder reads the fields its pattern leaves open, and they make up the word again. -/
theorem encodeDecodeRoundTrip : Obligations.EncodeDecodeRoundTrip := fun _ _ _ => encode_of_decodeWordWith

/-- The words of the well-formed instructions are the words with a meaning. -/
theorem decodeWordWith_eq_some_iff {hasLd : Bool} {w : Word} {i : Instr} :
    decodeWordWith hasLd w = some i ↔ i.wfWith hasLd = true ∧ encode i = w :=
  ⟨encode_of_decodeWordWith, fun ⟨hwf, hw⟩ => hw ▸ decodeWordWith_encode hwf⟩

/-! ### The opcode map -/

/-- Rows that can be selected by one word agree on the bits both fix; no two different rows of the map do (R66). -/
theorem opcodePatterns_eq_of_compatible :
    ∀ p ∈ opcodePatterns, ∀ q ∈ opcodePatterns, p.bits &&& q.mask = q.bits &&& p.mask → p = q := by
  decide

theorem ite_some_eq_none_iff {α : Type} {c : Prop} [Decidable c] {a : α} {o : Option α} :
    (if c then some a else o) = none ↔ ¬c ∧ o = none := by
  by_cases h : c <;> simp [h]

theorem fieldKk_eq_iff (w : Word) (b : Byte) : fieldKk w = b ↔ w.toNat % 256 = b.toNat := by
  rw [← BitVec.toNat_inj, fieldKk_toNat]

theorem fieldN_eq_iff (w : Word) (b : Nibble) : fieldN w = b ↔ w.toNat % 16 = b.toNat := by
  rw [← BitVec.toNat_inj, fieldN_toNat]

theorem decodeFamily0_eq_none_iff (w : Word) : decodeFamily0 w = none ↔ w ≠ 0x00E0#16 ∧ w ≠ 0x00EE#16 := by
  simp [decodeFamily0, ite_some_eq_none_iff]

theorem decodeFixedZero_eq_none_iff (i : Instr) (w : Word) : decodeFixedZero i w = none ↔ w.toNat % 16 ≠ 0 := by
  simp [decodeFixedZero, fieldN_eq_iff]

theorem decodeFamily8_eq_none_iff (w : Word) :
    decodeFamily8 true w = none ↔ w.toNat % 16 ∈ [0x8, 0x9, 0xA, 0xB, 0xC, 0xD, 0xF] := by
  have hn : w.toNat % 16 < 16 := Nat.mod_lt _ (by decide)
  rw [decodeFamily8, fieldN_toNat]
  generalize w.toNat % 16 = n at hn
  interval_cases n <;> simp

theorem decodeFamilyE_eq_none_iff (w : Word) : decodeFamilyE w = none ↔ w.toNat % 256 ∉ [0x9E, 0xA1] := by
  simp [decodeFamilyE, ite_some_eq_none_iff, fieldKk_eq_iff]

theorem decodeFamilyF_eq_none_iff (w : Word) :
    decodeFamilyF w = none ↔ w.toNat % 256 ∉ [0x07, 0x0A, 0x15, 0x18, 0x1E, 0x29, 0x33, 0x55, 0x65] := by
  simp [decodeFamilyF, ite_some_eq_none_iff, fieldKk_eq_iff]

/-- Settles O5: the decoder rejects only inside a family, and each family rejects what its group lists. -/
theorem invalidWordsExactly : Obligations.InvalidWordsExactly := by
  intro w
  have hn1 := fieldN1_toNat w
  have hlow : w.toNat < 0x1000 ↔ w.toNat / 0x1000 = 0 := by omega
  have hlt : w.toNat / 0x1000 < 16 := by have := w.isLt; omega
  rw [decodeWord, decodeWordWith, hn1, hlow]
  generalize hq : w.toNat / 4096 = q at hlt
  interval_cases q <;>
    simp [Config.hasLdVxVy, decodeFamily0_eq_none_iff, decodeFixedZero_eq_none_iff, decodeFamily8_eq_none_iff,
      decodeFamilyE_eq_none_iff, decodeFamilyF_eq_none_iff]

/-! The four forms of a row on the number of the word, the major nibble apart from the rest, with the masks as the map writes them. -/

theorem toNat_eq_iff_div_mod (w b : Word) : w.toNat = b.toNat ↔ w.toNat / 4096 = b.toNat / 4096 ∧ w.toNat % 4096 = b.toNat % 4096 := by
  omega

theorem selects_word_iff (w b : Word) :
    (OpcodePattern.mk 0xFFFF b).selects w = true ↔ w.toNat / 4096 = b.toNat / 4096 ∧ w.toNat % 4096 = b.toNat % 4096 :=
  (selects_FFFF w b).trans (toNat_eq_iff_div_mod w b)

theorem selects_n1_iff (w b : Word) :
    (OpcodePattern.mk 0xF000 b).selects w = true ↔ w.toNat / 4096 = b.toNat / 4096 ∧ b.toNat % 4096 = 0 := by
  refine (selects_F000 w b).trans ?_
  rw [fieldN1_toNat]; omega

theorem selects_n1_n_iff (w b : Word) :
    (OpcodePattern.mk 0xF00F b).selects w = true ↔ w.toNat / 4096 = b.toNat / 4096 ∧ w.toNat % 16 = b.toNat % 4096 := by
  refine (selects_F00F w b).trans ?_
  rw [fieldN1_toNat, fieldN_toNat]; omega

theorem selects_n1_kk_iff (w b : Word) :
    (OpcodePattern.mk 0xF0FF b).selects w = true ↔ w.toNat / 4096 = b.toNat / 4096 ∧ w.toNat % 256 = b.toNat % 4096 := by
  refine (selects_F0FF w b).trans ?_
  rw [fieldN1_toNat, fieldKk_toNat]; omega

/-- The rows of the map, family by family (R66). -/
theorem exists_selects_iff (w : Word) :
    (∃ p ∈ opcodePatterns, p.selects w = true) ↔
      (w.toNat / 4096 = 0x0 ∧ w.toNat % 4096 ∈ [0x0E0, 0x0EE]) ∨
      w.toNat / 4096 ∈ [0x1, 0x2, 0x3, 0x4, 0x6, 0x7, 0xA, 0xB, 0xC, 0xD] ∨
      (w.toNat / 4096 ∈ [0x5, 0x9] ∧ w.toNat % 16 = 0) ∨
      (w.toNat / 4096 = 0x8 ∧ w.toNat % 16 ∈ [0x0, 0x1, 0x2, 0x3, 0x4, 0x5, 0x6, 0x7, 0xE]) ∨
      (w.toNat / 4096 = 0xE ∧ w.toNat % 256 ∈ [0x9E, 0xA1]) ∨
      (w.toNat / 4096 = 0xF ∧ w.toNat % 256 ∈ [0x07, 0x0A, 0x15, 0x18, 0x1E, 0x29, 0x33, 0x55, 0x65]) := by
  have hlt : w.toNat / 4096 < 16 := by have := w.isLt; omega
  simp only [opcodePatterns, opcodePatternsA, opcodePatternsB, opcodePatternsC, List.cons_append, List.nil_append, List.mem_cons,
    List.not_mem_nil, or_false, exists_eq_or_imp, exists_eq_left, selects_word_iff, selects_n1_iff, selects_n1_n_iff,
    selects_n1_kk_iff, BitVec.reduceToNat, Nat.reduceDiv, Nat.reduceMod]
  generalize w.toNat / 4096 = n1 at hlt ⊢
  interval_cases n1 <;> simp

/-- The minor codes of family 8 that have a row are those that it does not reject (R66, R72). -/
theorem family8_minor_mem_iff (w : Word) :
    w.toNat % 16 ∈ [0x0, 0x1, 0x2, 0x3, 0x4, 0x5, 0x6, 0x7, 0xE] ↔ w.toNat % 16 ∉ [0x8, 0x9, 0xA, 0xB, 0xC, 0xD, 0xF] := by
  have hn : w.toNat % 16 < 16 := Nat.mod_lt _ (by decide)
  generalize w.toNat % 16 = n at hn ⊢
  interval_cases n <;> decide

/-- Settles O4: in each family the minor codes of the rows and those the family rejects are complementary. -/
theorem decodeMatchesOpcodeMap : Obligations.DecodeMatchesOpcodeMap := by
  refine ⟨fun w => ?_, fun w p hp q hq hpw hqw => ?_⟩
  · have hlow : w.toNat < 0x1000 ↔ w.toNat / 0x1000 = 0 := by omega
    have hlt : w.toNat / 4096 < 16 := by have := w.isLt; omega
    rw [exists_selects_iff, family8_minor_mem_iff, Option.isSome_iff_ne_none, Ne, invalidWordsExactly w, hlow, Ne, Ne,
      ← BitVec.toNat_inj, ← BitVec.toNat_inj, toNat_eq_iff_div_mod, toNat_eq_iff_div_mod]
    generalize w.toNat / 4096 = n1 at hlt ⊢
    interval_cases n1 <;> simp [or_iff_not_imp_left]
  · apply opcodePatterns_eq_of_compatible p hp q hq
    rw [OpcodePattern.selects, beq_iff_eq] at hpw hqw
    rw [← hpw, ← hqw, BitVec.and_assoc, BitVec.and_assoc, BitVec.and_comm q.mask]

/-- Settles O1: each written word is the encoding of the instruction beside it, and the two invalid ones are in the list of R72. -/
theorem writtenWordsDecode : Obligations.WrittenWordsDecode := by
  refine ⟨?_, ?_, ?_, ?_, ?_, ?_, ?_, ?_, ?_, ?_, fun x y => ⟨?_, ?_, ?_⟩⟩
  · exact decodeWord_encode (i := .ldImm 0xA#4 0x2C#8) rfl
  · exact decodeWord_encode (i := .addReg 1#4 2#4) rfl
  · exact decodeWord_encode (i := .ret) rfl
  · exact decodeWord_encode (i := .jpV0 2#4 0x2F0#12) rfl
  · exact decodeWord_encode (i := .seImm 1#4 0x2A#8) rfl
  · exact decodeWord_encode (i := .drw 0#4 1#4 5#4) rfl
  · exact decodeWord_encode (i := .skp 5#4) rfl
  · exact decodeWord_encode (i := .ldVxMem 1#4) rfl
  · exact (invalidWordsExactly _).mpr (.inl (by decide))
  · exact (invalidWordsExactly _).mpr (.inr (.inl (by decide)))
  · exact decodeWord_encode (i := .addReg x y) rfl
  · exact decodeWord_encode (i := .subReg x y) rfl
  · exact decodeWord_encode (i := .subnReg x y) rfl

end Sys2Proof
end

section
/-! What an instruction does, on states: the cause it raises, and the state it ends in where it raises none (40_step_cycle.md R85, R86;
60_exceptions.md R202). The facts of the later sections about one field or one class of instructions are read off the two. -/

namespace Sys2Proof.Machine

/-! ### The fields of the larger updates -/

@[simp] theorem State.afterDraw_v (s : State) : s.afterDraw.v = s.v := by rw [State.afterDraw_eq]
@[simp] theorem State.afterDraw_i (s : State) : s.afterDraw.i = s.i := by rw [State.afterDraw_eq]
@[simp] theorem State.afterDraw_pc (s : State) : s.afterDraw.pc = s.pc := by rw [State.afterDraw_eq]
@[simp] theorem State.afterDraw_sp (s : State) : s.afterDraw.sp = s.sp := by rw [State.afterDraw_eq]
@[simp] theorem State.afterDraw_stack (s : State) : s.afterDraw.stack = s.stack := by rw [State.afterDraw_eq]
@[simp] theorem State.afterDraw_dt (s : State) : s.afterDraw.dt = s.dt := by rw [State.afterDraw_eq]
@[simp] theorem State.afterDraw_st (s : State) : s.afterDraw.st = s.st := by rw [State.afterDraw_eq]
@[simp] theorem State.afterDraw_mem (s : State) : s.afterDraw.mem = s.mem := by rw [State.afterDraw_eq]
@[simp] theorem State.afterDraw_keys (s : State) : s.afterDraw.keys = s.keys := by rw [State.afterDraw_eq]
@[simp] theorem State.afterDraw_disp (s : State) : s.afterDraw.disp = s.disp := by rw [State.afterDraw_eq]
@[simp] theorem State.afterDraw_latch (s : State) : s.afterDraw.latch = s.latch := by rw [State.afterDraw_eq]
@[simp] theorem State.afterDraw_render (s : State) : s.afterDraw.render = s.render := by rw [State.afterDraw_eq]
@[simp] theorem State.afterDraw_fault (s : State) : s.afterDraw.fault = s.fault := by rw [State.afterDraw_eq]
@[simp] theorem State.afterDraw_reports (s : State) : s.afterDraw.reports = s.reports := by rw [State.afterDraw_eq]

section
variable (s : State) (base n : Nat)

@[simp] theorem State.loadRegs_i : (s.loadRegs base n).i = s.i := by rw [State.loadRegs_eq]
@[simp] theorem State.loadRegs_pc : (s.loadRegs base n).pc = s.pc := by rw [State.loadRegs_eq]
@[simp] theorem State.loadRegs_sp : (s.loadRegs base n).sp = s.sp := by rw [State.loadRegs_eq]
@[simp] theorem State.loadRegs_stack : (s.loadRegs base n).stack = s.stack := by rw [State.loadRegs_eq]
@[simp] theorem State.loadRegs_dt : (s.loadRegs base n).dt = s.dt := by rw [State.loadRegs_eq]
@[simp] theorem State.loadRegs_st : (s.loadRegs base n).st = s.st := by rw [State.loadRegs_eq]
@[simp] theorem State.loadRegs_mem : (s.loadRegs base n).mem = s.mem := by rw [State.loadRegs_eq]
@[simp] theorem State.loadRegs_keys : (s.loadRegs base n).keys = s.keys := by rw [State.loadRegs_eq]
@[simp] theorem State.loadRegs_disp : (s.loadRegs base n).disp = s.disp := by rw [State.loadRegs_eq]
@[simp] theorem State.loadRegs_latch : (s.loadRegs base n).latch = s.latch := by rw [State.loadRegs_eq]
@[simp] theorem State.loadRegs_render : (s.loadRegs base n).render = s.render := by rw [State.loadRegs_eq]
@[simp] theorem State.loadRegs_fault : (s.loadRegs base n).fault = s.fault := by rw [State.loadRegs_eq]
@[simp] theorem State.loadRegs_reports : (s.loadRegs base n).reports = s.reports := by rw [State.loadRegs_eq]
@[simp] theorem State.loadRegs_randomInput : (s.loadRegs base n).randomInput = s.randomInput := by rw [State.loadRegs_eq]
@[simp] theorem State.loadRegs_drawCount : (s.loadRegs base n).drawCount = s.drawCount := by rw [State.loadRegs_eq]

end

section
variable (s : State) (x y n : Nibble)

@[simp] theorem State.drawSprite_i : (s.drawSprite x y n).i = s.i := rfl
@[simp] theorem State.drawSprite_pc : (s.drawSprite x y n).pc = s.pc + 2#16 := rfl
@[simp] theorem State.drawSprite_sp : (s.drawSprite x y n).sp = s.sp := rfl
@[simp] theorem State.drawSprite_stack : (s.drawSprite x y n).stack = s.stack := rfl
@[simp] theorem State.drawSprite_mem : (s.drawSprite x y n).mem = s.mem := rfl
@[simp] theorem State.drawSprite_keys : (s.drawSprite x y n).keys = s.keys := rfl
@[simp] theorem State.drawSprite_disp : (s.drawSprite x y n).disp = (s.blitResult x y n).1 := rfl
@[simp] theorem State.drawSprite_latch : (s.drawSprite x y n).latch = s.latch := rfl
@[simp] theorem State.drawSprite_reports : (s.drawSprite x y n).reports = s.reports := rfl
@[simp] theorem State.drawSprite_randomInput : (s.drawSprite x y n).randomInput = s.randomInput := rfl
@[simp] theorem State.drawSprite_drawCount : (s.drawSprite x y n).drawCount = s.drawCount := rfl

@[simp] theorem State.blitResult_width : (s.blitResult x y n).1.width = s.disp.width := blit_width ..
@[simp] theorem State.blitResult_height : (s.blitResult x y n).1.height = s.disp.height := blit_height ..

end

/-! ### The cause and the completed state -/

/-- The cause of an access whose highest address is `top` (R204). -/
def dataCause (top : Nat) : Option StickyCause := if 0xFFF < top then some (.dataAddressOutOfRange top) else none

/-- The sticky cause an instruction raises in a state, if any (R204 to R206). -/
def State.cause (s : State) : Instr → Option StickyCause
  | .ret => if s.sp = 0#4 then some (.stackUnderflow s.pc) else none
  | .call _ => if s.sp = 15#4 then some (.stackOverflow s.pc) else none
  | .ldB _ => dataCause (s.dataAddr 2)
  | .ldMemVx x | .ldVxMem x => dataCause (s.dataAddr x.toNat)
  | .drw _ _ n => if n = 0#4 then none else dataCause (s.dataAddr (n.toNat - 1))
  | .cls | .jp _ | .seImm _ _ | .sneImm _ _ | .seReg _ _ | .ldImm _ _ | .addImm _ _ | .ldReg _ _ | .orReg _ _ | .andReg _ _
  | .xorReg _ _ | .addReg _ _ | .subReg _ _ | .shr _ _ | .subnReg _ _ | .shl _ _ | .sneReg _ _ | .ldI _ | .jpV0 _ _ | .rnd _ _
  | .skp _ | .sknp _ | .ldVxDt _ | .ldVxK _ | .ldDtVx _ | .ldStVx _ | .addI _ | .ldF _ => none

/-- The state an instruction ends in where it raises no cause: what `exec` answers, without the checks (`exec_eq`). -/
def State.completed (s : State) : Instr → State
  | .cls => ((s.setDisp s.disp.clear).setRender true).advance 2#16
  | .ret => s.pop.setPc (s.stackAt s.sp + 2#16)
  | .jp nnn => s.setPc (zextAddr nnn)
  | .call nnn => (s.push s.pc).setPc (zextAddr nnn)
  | .seImm x kk => s.skipIf (s.reg x == kk)
  | .sneImm x kk => s.skipIf (s.reg x != kk)
  | .seReg x y => s.skipIf (s.reg x == s.reg y)
  | .ldImm x kk => (s.setReg x kk).advance 2#16
  | .addImm x kk => (s.setReg x (s.reg x + kk)).advance 2#16
  | .ldReg x y => (s.setReg x (s.reg y)).advance 2#16
  | .orReg x y => (s.setResultThenFlag x (s.reg x ||| s.reg y) false).advance 2#16
  | .andReg x y => (s.setResultThenFlag x (s.reg x &&& s.reg y) false).advance 2#16
  | .xorReg x y => (s.setResultThenFlag x (s.reg x ^^^ s.reg y) false).advance 2#16
  | .addReg x y => (s.setResultThenFlag x (s.reg x + s.reg y) (carryOut (s.reg x) (s.reg y))).advance 2#16
  | .subReg x y => (s.setResultThenFlag x (s.reg x - s.reg y) (noBorrow (s.reg x) (s.reg y))).advance 2#16
  | .shr x _ => (s.setResultThenFlag x (s.reg x >>> 1) (lowBit (s.reg x))).advance 2#16
  | .subnReg x y => (s.setResultThenFlag x (s.reg y - s.reg x) (noBorrow (s.reg y) (s.reg x))).advance 2#16
  | .shl x _ => (s.setResultThenFlag x (s.reg x <<< 1) (highBit (s.reg x))).advance 2#16
  | .sneReg x y => s.skipIf (s.reg x != s.reg y)
  | .ldI nnn => (s.setI (zextAddr nnn)).advance 2#16
  | .jpV0 x nnn => s.setPc (zextAddr nnn + zextByte (s.reg x))
  | .rnd x kk => (s.afterDraw.setReg x (s.nextRandom &&& kk)).advance 2#16
  | .drw x y n => s.drawSprite x y n
  | .skp x => s.skipIf (s.key (keyIndex (s.reg x)))
  | .sknp x => s.skipIf (!s.key (keyIndex (s.reg x)))
  | .ldVxDt x => (s.setReg x s.dt).advance 2#16
  | .ldVxK x => (s.setLatch (.awaitingKey x)).advance 2#16
  | .ldDtVx x => (s.setDt (s.reg x)).advance 2#16
  | .ldStVx x => (s.setSt (s.reg x)).advance 2#16
  | .addI x => (s.setI (s.i + zextByte (s.reg x))).advance 2#16
  | .ldF x => (s.setI (glyphAddr (s.reg x))).advance 2#16
  | .ldB x => (s.setMem (s.mem.writeBytes (s.dataAddr 0) (bcdDigits (s.reg x)))).advance 2#16
  | .ldMemVx x =>
    ((s.setMem (s.mem.writeBytes (s.dataAddr 0) (s.regsUpTo x))).setI (s.i + (x.setWidth 16 + 1#16))).advance 2#16
  | .ldVxMem x => ((s.loadRegs (s.dataAddr 0) (x.toNat + 1)).setI (s.i + (x.setWidth 16 + 1#16))).advance 2#16

/-- A checked access by its cause (R47, R202). -/
theorem State.checkData_eq (s t : State) (top : Nat) :
    s.checkData top (.next t) = .next ((dataCause top).elim t fun c => { s with fault := some c }) := by
  unfold State.checkData dataCause
  split <;> rfl

/-- `exec`, written as what it is: a raised cause changes nothing but the fault latch, and without one the instruction completes (R202). -/
theorem exec_eq (i : Instr) (s : State) :
    exec i s = .next ((s.cause i).elim (s.completed i) fun c => { s with fault := some c }) := by
  cases i
  case ret => simp only [exec, execRet, State.cause]; split <;> rfl
  case call => simp only [exec, execCall, State.cause]; split <;> rfl
  case drw =>
    simp only [exec, execDrw, State.cause]
    split
    · rfl
    · exact State.checkData_eq ..
  case ldB | ldMemVx | ldVxMem => exact State.checkData_eq ..
  all_goals rfl

theorem exec_of_cause_none {i : Instr} {s : State} (h : s.cause i = none) : exec i s = .next (s.completed i) := by
  rw [exec_eq, h]; rfl

theorem exec_of_cause_some {i : Instr} {s : State} {c : StickyCause} (h : s.cause i = some c) :
    exec i s = .next { s with fault := some c } := by
  rw [exec_eq, h]; rfl

theorem exec_next_cases {i : Instr} {s t : State} (h : exec i s = .next t) :
    (∃ c, s.cause i = some c ∧ t = { s with fault := some c }) ∨ (s.cause i = none ∧ t = s.completed i) := by
  cases hc : s.cause i with
  | some c => exact .inl ⟨c, rfl, by cases (exec_of_cause_some hc).symm.trans h; rfl⟩
  | none => exact .inr ⟨rfl, by cases (exec_of_cause_none hc).symm.trans h; rfl⟩

theorem dataCause_eq_some_iff {top : Nat} {c : StickyCause} :
    dataCause top = some c ↔ 0xFFF < top ∧ c = .dataAddressOutOfRange top := by
  rw [dataCause, Option.ite_none_right_eq_some, Option.some_inj, eq_comm (a := c)]

theorem dataCause_of_le {top : Nat} (h : top ≤ 0xFFF) : dataCause top = none := if_neg (by omega)

theorem dataCause_of_lt {top : Nat} (h : 0xFFF < top) : dataCause top = some (.dataAddressOutOfRange top) := if_pos h

/-- When an instruction raises which cause (R204 to R206). -/
theorem State.cause_eq_some_iff {s : State} {i : Instr} {c : StickyCause} :
    s.cause i = some c ↔
      (∃ nnn, i = .call nnn ∧ s.sp = 15#4 ∧ c = .stackOverflow s.pc) ∨
      (i = .ret ∧ s.sp = 0#4 ∧ c = .stackUnderflow s.pc) ∨
      (∃ x, i = .ldB x ∧ 0xFFF < s.dataAddr 2 ∧ c = .dataAddressOutOfRange (s.dataAddr 2)) ∨
      (∃ x, (i = .ldMemVx x ∨ i = .ldVxMem x) ∧ 0xFFF < s.dataAddr x.toNat ∧ c = .dataAddressOutOfRange (s.dataAddr x.toNat)) ∨
      (∃ x y n, i = .drw x y n ∧ n ≠ 0#4 ∧ 0xFFF < s.dataAddr (n.toNat - 1) ∧
        c = .dataAddressOutOfRange (s.dataAddr (n.toNat - 1))) := by
  cases i
  case ret | call => simp [State.cause, eq_comm (b := c)]
  case ldB | ldMemVx | ldVxMem | drw => simp [State.cause, dataCause_eq_some_iff]
  all_goals simp [State.cause]

@[simp] theorem State.cause_beginStep (s : State) (i : Instr) : s.beginStep.cause i = s.cause i := by cases i <;> rfl

@[simp] theorem State.completed_fault (s : State) (i : Instr) : (s.completed i).fault = s.fault := by
  cases i <;> simp [State.completed]

/-! ### What a step can do -/

/-- Everything a step can do: it is ignored, commits a key, faults on its fetch, reports an invalid word, or runs an instruction, which raises
a cause or completes (R87, R207). -/
theorem step_next_cases {s t : State} (h : step s = .next t) :
    ((s.fault ≠ none ∨ ∃ r, s.latch = .awaitingKey r) ∧ t = s) ∨
    (s.fault = none ∧ ∃ r k, s.latch = .pending r k ∧ t = (s.beginStep.setReg r (k.setWidth 8)).setLatch .running) ∨
    (s.decodesNext ∧ 0xFFF ≤ s.pc.toNat ∧ t = { s.beginStep with fault := some (.fetchAddressOutOfRange s.pc) }) ∨
    (s.decodesNext ∧ s.pc.toNat < 0xFFF ∧ decodeWord s.fetchWord = none ∧ t = s.beginStep.reportInvalid s.fetchWord) ∨
    (∃ i c, s.decodesNext ∧ s.pc.toNat < 0xFFF ∧ decodeWord s.fetchWord = some i ∧ s.cause i = some c ∧
      t = { s.beginStep with fault := some c }) ∨
    (∃ i, s.decodesNext ∧ s.pc.toNat < 0xFFF ∧ decodeWord s.fetchWord = some i ∧ s.cause i = none ∧
      t = s.beginStep.completed i) := by
  rcases step_cases s with
    ⟨hig, hs⟩ | ⟨hf, r, k, hl, hs⟩ | ⟨hf, hl, hp, hs⟩ | ⟨hf, hl, hp, hn, hs⟩ | ⟨hf, hl, hp, i, hi, hs⟩
  · cases hs.symm.trans h; exact .inl ⟨hig, rfl⟩
  · cases hs.symm.trans h; exact .inr (.inl ⟨hf, r, k, hl, rfl⟩)
  · cases hs.symm.trans h; exact .inr (.inr (.inl ⟨⟨hf, hl⟩, hp, rfl⟩))
  · cases hs.symm.trans h; exact .inr (.inr (.inr (.inl ⟨⟨hf, hl⟩, hp, hn, rfl⟩)))
  · rcases exec_next_cases (hs.symm.trans h) with ⟨c, hc, ht⟩ | ⟨hc, ht⟩ <;> rw [State.cause_beginStep] at hc
    · exact .inr (.inr (.inr (.inr (.inl ⟨i, c, ⟨hf, hl⟩, hp, hi, hc, ht⟩))))
    · exact .inr (.inr (.inr (.inr (.inr ⟨i, ⟨hf, hl⟩, hp, hi, hc, ht⟩))))

end Sys2Proof.Machine
end

section
/-! PC, the latch and the fault latch at the end of a step (10_state.md R13, 45_keywait_protocol.md R160, 60_exceptions.md section 2). -/

namespace Sys2Proof.Machine

/-! ### Steps that do nothing -/

/-- Settles O11: the gate is asked before anything else. -/
theorem ignoredStepChangesNothing : Obligations.IgnoredStepChangesNothing := by
  intro s h
  rw [step_eq, if_pos (s.ignoresStep_iff.mpr h.symm)]

/-! ### PC by instruction class -/

theorem zextAddr_eq_ofNat (nnn : Addr) : zextAddr nnn = BitVec.ofNat 16 nnn.toNat :=
  (BitVec.ofNat_toNat ..).symm

/-- The target of Bnnn does not wrap: it is a sum of a 12-bit and an 8-bit number (R104). -/
theorem jpV0_target_toNat (nnn : Addr) (b : Byte) : (zextAddr nnn + zextByte b).toNat = nnn.toNat + b.toNat := by
  have := nnn.isLt
  have := b.isLt
  rw [zextAddr, zextByte, BitVec.toNat_add, BitVec.toNat_setWidth_of_le (by decide), BitVec.toNat_setWidth_of_le (by decide)]
  omega

theorem keyIndex_eq_ofNat (b : Byte) : keyIndex b = BitVec.ofNat 4 b.toNat := by
  apply BitVec.eq_of_toNat_eq
  rw [keyIndex, BitVec.extractLsb'_toNat, BitVec.toNat_ofNat, Nat.shiftRight_zero]

/-- Whatever an instruction does besides, PC ends as the table of classes says (R13). -/
theorem State.completed_pc (s : State) (i : Instr) : (s.completed i).pc = pcTable s i := by
  cases i
  case jp | call => exact zextAddr_eq_ofNat _
  case jpV0 x nnn =>
    apply BitVec.eq_of_toNat_eq
    have := nnn.isLt
    have := (s.reg x).isLt
    simp only [State.completed, State.setPc_pc, jpV0_target_toNat, pcTable, BitVec.toNat_ofNat]
    omega
  case seImm | seReg => simp only [State.completed, State.skipIf_pc, pcTable, beq_iff_eq]; split <;> rfl
  case sneImm | sneReg => simp only [State.completed, State.skipIf_pc, pcTable, bne_iff_ne, ite_not]; split <;> rfl
  case skp => simp only [State.completed, State.skipIf_pc, pcTable, keyIndex_eq_ofNat]; split <;> rfl
  case sknp =>
    simp only [State.completed, State.skipIf_pc, pcTable, keyIndex_eq_ofNat, Bool.not_eq_true', ← Bool.not_eq_true, ite_not]
    split <;> rfl
  case rnd | ldVxMem => simp [State.completed, pcTable]
  all_goals rfl

@[simp] theorem pcTable_beginStep (s : State) (i : Instr) : pcTable s.beginStep i = pcTable s i := by cases i <;> rfl

/-- Settles O17: the paths that execute nothing keep PC, and the instruction that completes moves it as its class does. -/
theorem pcFollowsClassTable : Obligations.PcFollowsClassTable := by
  intro s t hf h ht
  rcases step_next_cases h with
    ⟨hig, rfl⟩ | ⟨-, r, k, hl, rfl⟩ | ⟨-, -, rfl⟩ | ⟨hrun, -, hd, rfl⟩ | ⟨i, c, -, -, -, -, rfl⟩ | ⟨i, hrun, -, hd, -, rfl⟩
  · obtain ⟨r, hl⟩ := hig.resolve_left (not_not.mpr hf)
    simp [hl]
  · simp [hl]
  · cases ht
  · simp [hrun.2, hd]
  · cases ht
  · simp [hrun.2, hd, State.completed_pc]

/-! ### The latch -/

/-- Only Fx0A moves the latch (R156, R160). -/
theorem State.completed_latch (s : State) (i : Instr) :
    (∃ r, i = .ldVxK r ∧ (s.completed i).latch = .awaitingKey r) ∨ ((∀ r, i ≠ .ldVxK r) ∧ (s.completed i).latch = s.latch) := by
  cases i
  case ldVxK r => exact .inl ⟨r, rfl, rfl⟩
  all_goals exact .inr (by simp [State.completed])

/-- Settles O24: each path of a step has its row of the table, and of the instructions only Fx0A moves the latch. -/
theorem latchMovesOnlyAsTable : Obligations.LatchMovesOnlyAsTable := by
  intro s t hf h
  rcases step_next_cases h with
    ⟨hig, rfl⟩ | ⟨-, r, k, hl, rfl⟩ | ⟨⟨-, hl⟩, hp, rfl⟩ | ⟨⟨-, hl⟩, hp, hd, rfl⟩ | ⟨i, c, ⟨-, hl⟩, hp, hd, hc, rfl⟩ |
    ⟨i, ⟨-, hl⟩, hp, hd, -, rfl⟩
  · obtain ⟨r, hl⟩ := hig.resolve_left (not_not.mpr hf)
    simp [hl]
  · simp [hl]
  · simp [hl, State.fetchDecode_of_outOfRange hp]
  · simp [hl, State.fetchDecode_of_none (s.canFetch_iff.mpr hp) hd]
  · have hk : ∀ r, i ≠ .ldVxK r := by rintro r rfl; cases hc
    simp [hl, State.fetchDecode_of_some (s.canFetch_iff.mpr hp) hd, hk]
  · rw [State.fetchDecode_of_some (s.canFetch_iff.mpr hp) hd]
    rcases s.beginStep.completed_latch i with ⟨r, rfl, hr⟩ | ⟨hk, hr⟩
    · simp [hl, hr]
    · simp [hl, hr, hk]

/-! ### Faults -/

theorem step_of_fetchDecode_outOfRange {s : State} (h : s.decodesNext) {pc : Word} (hd : s.fetchDecode = .outOfRange pc) :
    step s = .next { s.beginStep with fault := some (.fetchAddressOutOfRange pc) } := by
  simp [step_eq, State.ignoresStep_of_decodesNext h, State.commitPending, h.2, hd]

/-- Settles O13: the fetch is checked before the word is read, and the cause is latched on the state after steps 1 and 2. -/
theorem fetchOutOfRangeFaults : Obligations.FetchOutOfRangeFaults := by
  intro s hrun hp
  rw [step_of_fetchDecode_outOfRange hrun (State.fetchDecode_of_outOfRange hp), State.beginStep_eq]

/-- Settles O25: of the paths of a step only the fetch fault and a raised cause latch one, and both add nothing to steps 1 and 2. -/
theorem faultIsPrecise : Obligations.FaultIsPrecise := by
  intro s t c hf h ht
  have hn : s.fault ≠ some c := by simp [hf]
  rcases step_next_cases h with
    ⟨-, rfl⟩ | ⟨-, r, k, -, rfl⟩ | ⟨-, -, rfl⟩ | ⟨-, -, -, rfl⟩ | ⟨i, c', -, -, -, -, rfl⟩ | ⟨i, -, -, -, -, rfl⟩
  · exact absurd ht hn
  · exact absurd ht hn
  · cases ht; rw [State.beginStep_eq]
  · exact absurd ht hn
  · cases ht; rw [State.beginStep_eq]
  · exact absurd ((State.completed_fault _ i).symm.trans ht) hn

/-- The cause of the fetched instruction, with the addresses on numbers (R204 to R206). -/
theorem State.cause_fetched_iff {s : State} {i : Instr} {c : StickyCause} (hd : decodeWord s.fetchWord = some i) :
    s.cause i = some c ↔
      (∃ nnn, decodeWord s.fetchWord = some (.call nnn) ∧ s.sp = 15#4 ∧ c = .stackOverflow s.pc) ∨
      (decodeWord s.fetchWord = some .ret ∧ s.sp = 0#4 ∧ c = .stackUnderflow s.pc) ∨
      (∃ x, decodeWord s.fetchWord = some (.ldB x) ∧ 0xFFF < s.i.toNat + 2 ∧ c = .dataAddressOutOfRange (s.i.toNat + 2)) ∨
      (∃ x, (decodeWord s.fetchWord = some (.ldMemVx x) ∨ decodeWord s.fetchWord = some (.ldVxMem x)) ∧
        0xFFF < s.i.toNat + x.toNat ∧ c = .dataAddressOutOfRange (s.i.toNat + x.toNat)) ∨
      (∃ x y n, decodeWord s.fetchWord = some (.drw x y n) ∧ 0 < n.toNat ∧ 0xFFF < s.i.toNat + n.toNat - 1 ∧
        c = .dataAddressOutOfRange (s.i.toNat + n.toNat - 1)) := by
  have hheight : ∀ n : Nibble, n ≠ 0#4 ↔ 0 < n.toNat := fun n => by
    rw [Nat.pos_iff_ne_zero, Ne, ← BitVec.toNat_inj]; rfl
  simp only [State.cause_eq_some_iff, hd, Option.some_inj, State.dataAddr_eq, hheight]
  refine or_congr_right (or_congr_right (or_congr_right (or_congr_right ?_)))
  refine exists_congr fun x => exists_congr fun y => exists_congr fun n => and_congr_right fun _ => and_congr_right fun hn => ?_
  rw [Nat.add_sub_assoc hn]

/-- Settles O26: a step latches its fetch fault or the cause of the fetched instruction, and nothing else. -/
theorem faultsExactlyWhen : Obligations.FaultsExactlyWhen := by
  intro s t c hrun h
  obtain ⟨hf, hl⟩ := hrun
  rcases step_next_cases h with
    ⟨hig, -⟩ | ⟨-, r, k, hl', -⟩ | ⟨-, hp, rfl⟩ | ⟨-, hp, hd, rfl⟩ | ⟨i, c', -, hp, hd, hc, rfl⟩ | ⟨i, -, hp, hd, hc, rfl⟩
  · simp [hf, hl] at hig
  · simp [hl] at hl'
  · simp [hp, Nat.not_lt.mpr hp, eq_comm (a := c)]
  · simp [hf, hd, Nat.not_le.mpr hp]
  · rw [← State.cause_fetched_iff hd, hc]; simp [hp, Nat.not_le.mpr hp]
  · rw [← State.cause_fetched_iff hd, hc]; simp [hf, Nat.not_le.mpr hp]

end Sys2Proof.Machine
end

section
/-! Key events, and sequences of host operations: one induction over a run, and the states that every run leaves as they are
(45_keywait_protocol.md R160 to R166, 47_host_interface.md R187, R189, 60_exceptions.md R201, R208). -/

namespace Sys2Proof.Machine

/-! ### Key events -/

theorem State.keyPress_of_fault_none {s : State} (hf : s.fault = none) (k : Nibble) :
    s.keyPress k = (s.setKey k true).setLatch (s.latch.onPress k) := by
  simp [State.keyPress, hf]

theorem State.keyRelease_of_fault_none {s : State} (hf : s.fault = none) (k : Nibble) : s.keyRelease k = s.setKey k false := by
  simp [State.keyRelease, hf]

/-- While an instruction can be decoded a press only sets its flag (R161). -/
theorem State.keyPress_of_decodesNext {s : State} (h : s.decodesNext) (k : Nibble) : s.keyPress k = s.setKey k true := by
  rw [State.keyPress_of_fault_none h.1, h.2, Latch.onPress, ← h.2]; rfl

/-- A release writes at most key flags, whatever the state (R163, R208). -/
theorem State.keyRelease_eq (s : State) (k : Nibble) : s.keyRelease k = { s with keys := (s.keyRelease k).keys } := by
  unfold State.keyRelease; split <;> rfl

theorem Latch.onPress_of_not_awaitingKey {s : State} (h : s.awaitingKey = false) (k : Nibble) : s.latch.onPress k = s.latch := by
  unfold State.awaitingKey at h
  cases hl : s.latch with
  | running => rfl
  | pending => rfl
  | awaitingKey r => simp [hl] at h

/-- Settles O20: a press is one flag write and one move of the latch. -/
theorem keyPressEffect : Obligations.KeyPressEffect := by
  intro s k hf
  rw [State.keyPress_of_fault_none hf]
  refine ⟨?_, fun j hj => ?_, fun r hl => ?_, fun ha => ?_, rfl⟩
  · rw [State.key_setLatch, State.key_setKey, if_pos rfl]
  · rw [State.key_setLatch, State.key_setKey, if_neg hj]
  · rw [State.setLatch_latch, hl, Latch.onPress]
  · rw [State.setLatch_latch, Latch.onPress_of_not_awaitingKey ha]

/-- Settles O21: a release is one flag write, or nothing. -/
theorem keyReleaseEffect : Obligations.KeyReleaseEffect := by
  intro s k
  refine ⟨by rw [State.keyRelease_eq], fun hf => ?_⟩
  rw [State.keyRelease_of_fault_none hf]
  refine ⟨?_, fun j hj => ?_, rfl⟩
  · rw [State.key_setKey, if_pos rfl]
  · rw [State.key_setKey, if_neg hj]

/-! ### Runs -/

theorem step_total (s : State) : ∃ t, step s = .next t := by
  rcases step_cases s with ⟨-, h⟩ | ⟨-, r, k, -, h⟩ | ⟨-, -, -, h⟩ | ⟨-, -, -, -, h⟩ | ⟨-, -, -, i, -, h⟩
  case inr.inr.inr.inr => exact ⟨_, h.trans (exec_eq i s.beginStep)⟩
  all_goals exact ⟨_, h⟩

theorem HostOp.apply_total (op : HostOp) (s : State) : ∃ t, op.apply s = .next t := by
  cases op with
  | step => exact step_total s
  | keyPress k => exact ⟨_, HostOp.apply_keyPress k s⟩
  | keyRelease k => exact ⟨_, HostOp.apply_keyRelease k s⟩
  | read => exact ⟨_, HostOp.apply_read s⟩

/-- What holds before a run and is kept by every operation, the operations done so far being known, holds after it (R187). -/
theorem runOps_induction {P : List HostOp → State → Prop} {s : State} (h0 : P [] s)
    (hstep : ∀ done op t, P done t → ∃ u, op.apply t = .next u ∧ P (done ++ [op]) u) (ops : List HostOp) :
    ∃ t, runOps ops s = .next t ∧ P ops t := by
  have hrun : ∀ (ops done : List HostOp) (s : State), P done s → ∃ t, runOps ops s = .next t ∧ P (done ++ ops) t := by
    intro ops
    induction ops with
    | nil => intro done s h; exact ⟨s, runOps_nil s, by simpa using h⟩
    | cons op ops ih =>
      intro done s h
      obtain ⟨u, hu, hPu⟩ := hstep done op s h
      obtain ⟨t, ht, hPt⟩ := ih (done ++ [op]) u hPu
      exact ⟨t, (runOps_cons op ops s u hu).trans ht, by simpa using hPt⟩
  exact hrun ops [] s h0

/-- Settles O18: a step executes by `exec`, which always answers a next state, and the other operations cannot fail. -/
theorem everyRunGoesOn : Obligations.EveryRunGoesOn := by
  refine ⟨step_total, fun i s => ⟨_, exec_eq i s⟩, fun ops s => ?_⟩
  obtain ⟨t, ht, -⟩ := runOps_induction (P := fun _ _ => True) trivial
    (fun _ op t _ => (op.apply_total t).imp fun _ h => ⟨h, trivial⟩) ops
  exact ⟨t, ht⟩

/-! ### The latched fault and the wait -/

theorem HostOp.apply_of_faulted {s : State} (h : s.faulted) (op : HostOp) : op.apply s = .next s := by
  have hf : s.fault.isSome = true := Option.isSome_iff_ne_none.mpr h
  cases op with
  | step => exact ignoredStepChangesNothing s (.inr h)
  | keyPress k => rw [HostOp.apply_keyPress, State.keyPress, if_pos hf]
  | keyRelease k => rw [HostOp.apply_keyRelease, State.keyRelease, if_pos hf]
  | read => rfl

/-- Settles O22: every operation answers the faulted state itself. -/
theorem faultedIsTerminal : Obligations.FaultedIsTerminal := by
  intro ops s hs
  obtain ⟨t, ht, rfl⟩ := runOps_induction (P := fun _ t => t = s) rfl
    (fun _ op t ht => ⟨s, ht ▸ HostOp.apply_of_faulted hs op, rfl⟩) ops
  exact ht

/-- What a run without a press leaves of a waiting state. -/
def KeptWaiting (s : State) (done : List HostOp) (t : State) : Prop :=
  (∀ k, .keyPress k ∉ done) → t = { s with keys := t.keys } ∧ ((∀ k, .keyRelease k ∉ done) → t = s)

theorem KeptWaiting.apply {s t : State} {r : Nibble} {done : List HostOp} (hl : s.latch = .awaitingKey r) (h : KeptWaiting s done t)
    (op : HostOp) : ∃ u, op.apply t = .next u ∧ KeptWaiting s (done ++ [op]) u := by
  cases op with
  | keyPress k => exact ⟨_, HostOp.apply_keyPress k t, fun hp => absurd (hp k) (by simp)⟩
  | keyRelease k =>
    refine ⟨_, HostOp.apply_keyRelease k t, fun hp => ⟨?_, fun hr => absurd (hr k) (by simp)⟩⟩
    obtain ⟨ht, -⟩ := h (by simpa using hp)
    rw [State.keyRelease_eq, ht]
  | read =>
    refine ⟨t, HostOp.apply_read t, fun hp => ?_⟩
    simpa using h (by simpa using hp)
  | step =>
    obtain ⟨u, hu⟩ := step_total t
    refine ⟨u, hu, fun hp => ?_⟩
    obtain ⟨ht, hts⟩ := h (by simpa using hp)
    have htl : t.latch = .awaitingKey r := by rw [ht]; exact hl
    cases (ignoredStepChangesNothing t (.inl ⟨r, htl⟩)).symm.trans hu
    exact ⟨ht, by simpa using hts⟩

/-- Settles O23: only a press moves the latch out of the wait, and meanwhile only a release writes anything. -/
theorem waitHasNoTimeout : Obligations.WaitHasNoTimeout := by
  intro ops s r hl hp
  obtain ⟨t, ht, hkept⟩ := runOps_induction (P := KeptWaiting s) (fun _ => ⟨rfl, fun _ => rfl⟩)
    (fun _ op _ h => KeptWaiting.apply hl h op) ops
  obtain ⟨hts, hsame⟩ := hkept hp
  exact ⟨t, ht, by rw [hts]; exact hl, hts, hsame⟩

/-! ### The invalid-opcode stall -/

/-- What `n` steps, and key events and reads among them, leave of a stalled state (R201). -/
structure StalledFor (s : State) (n : Nat) (t : State) : Prop where
  frame : t = { s with dt := t.dt, st := t.st, render := t.render, reports := t.reports, keys := t.keys }
  reports : t.reports = List.replicate n s.fetchWord ++ s.reports
  dt : t.dt.toNat = s.dt.toNat - n
  st : t.st.toNat = s.st.toNat - n
  render : t.render = if n = 0 then s.render else false

theorem StalledFor.refl (s : State) : StalledFor s 0 s := ⟨rfl, rfl, rfl, rfl, rfl⟩

theorem StalledFor.fetchWord {s t : State} {n : Nat} (h : StalledFor s n t) : t.fetchWord = s.fetchWord := by rw [h.frame]; rfl

theorem StalledFor.stalled {s t : State} {n : Nat} (hs : s.stalled) (h : StalledFor s n t) : t.stalled := by rw [h.frame]; exact hs

/-- At a stall the step reports the word and does nothing else but steps 1 and 2 (R89, R201). -/
theorem step_of_stalled {s : State} (hs : s.stalled) : step s = .next (s.beginStep.reportInvalid s.fetchWord) := by
  obtain ⟨hrun, hc, hd⟩ := hs
  exact step_of_fetchDecode_invalid hrun (State.fetchDecode_of_none hc hd)

theorem StalledFor.step {s t : State} {n : Nat} (h : StalledFor s n t) : StalledFor s (n + 1) (t.beginStep.reportInvalid t.fetchWord) where
  frame := by rw [h.frame]; rfl
  reports := by simp [h.fetchWord, h.reports, List.replicate_succ]
  dt := by simp only [State.reportInvalid_dt, State.beginStep_dt, tick_toNat, h.dt]; omega
  st := by simp only [State.reportInvalid_st, State.beginStep_st, tick_toNat, h.st]; omega
  render := rfl

theorem StalledFor.setKey {s t : State} {n : Nat} (h : StalledFor s n t) (k : Nibble) (b : Bool) : StalledFor s n (t.setKey k b) where
  frame := by rw [h.frame]; rfl
  reports := h.reports
  dt := h.dt
  st := h.st
  render := h.render

theorem StalledFor.apply {s t : State} {done : List HostOp} (hs : s.stalled) (h : StalledFor s (done.count .step) t) (op : HostOp) :
    ∃ u, op.apply t = .next u ∧ StalledFor s ((done ++ [op]).count .step) u := by
  have ht := h.stalled hs
  cases op with
  | step => exact ⟨_, step_of_stalled ht, by simpa using h.step⟩
  | keyPress k =>
    refine ⟨_, HostOp.apply_keyPress k t, ?_⟩
    simpa [State.keyPress_of_decodesNext ht.1] using h.setKey k true
  | keyRelease k =>
    refine ⟨_, HostOp.apply_keyRelease k t, ?_⟩
    simpa [State.keyRelease_of_fault_none ht.1.1] using h.setKey k false
  | read => exact ⟨t, HostOp.apply_read t, by simpa using h⟩

/-- Settles O14: each operation keeps the stall and adds its own share of the changes. -/
theorem invalidOpcodeStallsForever : Obligations.InvalidOpcodeStallsForever := by
  intro ops s hs
  refine ⟨?_, fun k => ⟨?_, ?_⟩⟩
  · obtain ⟨t, ht, h⟩ := runOps_induction (P := fun done => StalledFor s (done.count .step)) (StalledFor.refl s)
      (fun _ op _ h => h.apply hs op) ops
    refine ⟨t, ht, h.stalled hs, h.fetchWord, (h.stalled hs).1.1, h.reports, h.dt, h.st, h.render, fun a => ?_, h.frame⟩
    rw [h.frame]
  · rw [State.keyPress_of_decodesNext hs.1, State.key_setKey, if_pos rfl]
  · rw [State.keyRelease_of_fault_none hs.1.1, State.key_setKey, if_pos rfl]

/-! ### Steady states -/

/-- A jump to itself runs into itself (R101, R189). -/
theorem step_of_atSelfJump {s : State} (hs : s.atSelfJump) : step s = .next s.beginStep := by
  obtain ⟨hrun, hc, nnn, hd, hpc⟩ := hs
  rw [step_of_fetchDecode_instr hrun (State.fetchDecode_of_some hc hd), exec_eq]
  show Host.Outcome.next (s.beginStep.setPc (zextAddr nnn)) = .next s.beginStep
  rw [hpc]; rfl

/-- Settles O33: two kinds ignore the step, the stall only reports, and the self-jump sets PC to what it was. -/
theorem steadyStatesStay : Obligations.SteadyStatesStay := by
  intro s t hs h
  rcases hs with hs | hs | hs | hs
  · cases (ignoredStepChangesNothing s (.inr hs)).symm.trans h
    exact ⟨.inl hs, rfl, rfl, rfl, rfl, rfl, rfl, rfl, rfl, rfl⟩
  · cases (step_of_stalled hs).symm.trans h
    exact ⟨.inr (.inl hs), rfl, rfl, rfl, rfl, rfl, rfl, rfl, rfl, rfl⟩
  · cases (ignoredStepChangesNothing s (.inl hs.2)).symm.trans h
    exact ⟨.inr (.inr (.inl hs)), rfl, rfl, rfl, rfl, rfl, rfl, rfl, rfl, rfl⟩
  · cases (step_of_atSelfJump hs).symm.trans h
    exact ⟨.inr (.inr (.inr hs)), rfl, rfl, rfl, rfl, rfl, rfl, rfl, rfl, rfl⟩

end Sys2Proof.Machine
end

section
/-! The invariant: it holds after construction, every step and every key event keeps it, and so every state of every run has it
(10_state.md section 9, R29; 41_control_flow.md R106; 47_host_interface.md). -/

namespace Sys2Proof.Machine

/-! ### Construction -/

theorem State.initial_inv {width height : Nat} {mem : Memory} (hw : 1 ≤ width) (hh : 1 ≤ height) (hm : mem.wf) :
    (State.initial width height mem).Inv where
  memory := hm
  display := ⟨hw, hh, List.Pairwise.nil, fun _ h => by cases h⟩
  liveStack := fun j hj hle => absurd (hj.trans hle : 1 ≤ 0) (by decide)
  pcBound := (by decide : 0x200 ≤ 0x10FE)
  faultFits := fun _ h => by cases h

/-- Settles O9: the reset state is an initial state with the empty memory. -/
theorem resetMeetsInvariant : Obligations.ResetMeetsInvariant :=
  State.initial_inv (by decide) (by decide) Memory.wf_nil

theorem resetByte_above_font {a : Nat} (h : 80 ≤ a) : resetByte a = 0#8 := List.getD_eq_default _ _ h

/-- Settles O6: the vectors are replicated zeros, the display is blank, and the empty memory reads as the font and then zeros. -/
theorem resetStateValues : Obligations.ResetStateValues := by
  refine ⟨rfl, rfl, rfl, rfl, rfl, fun r => ?_, fun j => ?_, fun k => ?_, fun _ _ => rfl, rfl, rfl, rfl, rfl, rfl, ?_, fun _ _ => rfl⟩
  · exact Vector.getElem_replicate ..
  · exact Vector.getElem_replicate ..
  · exact Vector.getElem_replicate ..
  · exact fun a h => resetByte_above_font h

theorem constructedMemory_wf (glyphs : Vector Byte 80) (rom : List Byte) : (constructedMemory glyphs rom).wf :=
  Memory.writeBytes_wf _ (Memory.writeBytes_wf _ Memory.wf_nil _) _

/-- Between the font and the ROM and behind the ROM memory is zero (R30, D2). -/
theorem constructedMemory_read_outside (glyphs : Vector Byte 80) (rom : List Byte) {a : Nat} (hfont : 80 ≤ a)
    (hrom : a < 0x200 ∨ 0x200 + rom.length ≤ a) : (constructedMemory glyphs rom).read a = 0#8 := by
  have hlen : glyphs.toList.length = 80 := Vector.length_toList
  rw [constructedMemory, Memory.read_writeBytes_outside _ _ _ _ hrom, Memory.read_writeBytes_outside _ _ _ _ (by omega)]
  exact resetByte_above_font hfont

/-- Settles O8: the two checks of construction, and the initial state of the constructed memory. -/
theorem constructExactly : Obligations.ConstructExactly := by
  intro glyphs width height rom
  refine ⟨fun hrom hw hh => ?_, fun hrom => ?_, fun hrom hd => ?_⟩
  · exact ⟨_, constructWith_eq_next glyphs hrom hw hh, State.initial_inv hw hh (constructedMemory_wf glyphs rom), rfl,
      fun a => constructedMemory_read_outside glyphs rom, rfl, rfl, rfl⟩
  · rw [constructWith, if_pos hrom]
  · rw [constructWith, if_neg (Nat.not_lt.mpr hrom), if_pos (by omega)]

theorem constructWith_eq_next_iff {glyphs : Vector Byte 80} {width height : Nat} {rom : List Byte} {s : State} :
    constructWith glyphs width height rom = .next s ↔
      rom.length ≤ 3584 ∧ 1 ≤ width ∧ 1 ≤ height ∧ s = State.initial width height (constructedMemory glyphs rom) := by
  constructor
  · intro h
    rw [constructWith] at h
    split_ifs at h with hrom hd
    cases h
    exact ⟨Nat.le_of_not_lt hrom, by omega, by omega, rfl⟩
  · rintro ⟨hrom, hw, hh, rfl⟩
    exact constructWith_eq_next glyphs hrom hw hh

/-! ### What the invariant looks at -/

theorem StickyCause.fits_congr {s t : State} (hi : t.i = s.i) (hpc : t.pc = s.pc) (hsp : t.sp = s.sp) (c : StickyCause) :
    c.fits t ↔ c.fits s := by
  cases c <;> simp only [StickyCause.fits, hi, hpc, hsp]

theorem State.liveStackOk_of_eq {s t : State} (h : s.liveStackOk) (hstack : t.stack = s.stack) (hsp : t.sp = s.sp) : t.liveStackOk := by
  intro j hj hle
  rw [State.stackAt_congr hstack]
  exact h j hj (hsp ▸ hle)

/-- The invariant speaks of no other fields than these. -/
theorem State.Inv.of_eq {s t : State} (h : s.Inv) (hmem : t.mem = s.mem) (hdisp : t.disp = s.disp) (hstack : t.stack = s.stack)
    (hsp : t.sp = s.sp) (hpc : t.pc = s.pc) (hi : t.i = s.i) (hf : t.fault = s.fault) : t.Inv where
  memory := hmem ▸ h.memory
  display := hdisp ▸ h.display
  liveStack := State.liveStackOk_of_eq h.liveStack hstack hsp
  pcBound := hpc ▸ h.pcBound
  faultFits := fun c hc => (StickyCause.fits_congr hi hpc hsp c).mpr (h.faultFits c (hf ▸ hc))

theorem State.Inv.beginStep {s : State} (h : s.Inv) : s.beginStep.Inv := h.of_eq rfl rfl rfl rfl rfl rfl rfl

theorem State.Inv.raise {s : State} {c : StickyCause} (h : s.Inv) (hc : c.fits s) : State.Inv { s with fault := some c } where
  memory := h.memory
  display := h.display
  liveStack := h.liveStack
  pcBound := h.pcBound
  faultFits := fun c' hc' => by cases hc'; exact (StickyCause.fits_congr rfl rfl rfl c).mpr hc

/-! ### An instruction keeps it -/

/-- A data address is at most 15 above I, so what a raised cause records fits the state it is raised in (R203 to R206). -/
theorem State.cause_fits {s : State} {i : Instr} {c : StickyCause} (h : s.cause i = some c) : c.fits s := by
  rcases State.cause_eq_some_iff.mp h with
    ⟨nnn, -, hsp, rfl⟩ | ⟨-, hsp, rfl⟩ | ⟨x, -, ha, rfl⟩ | ⟨x, -, ha, rfl⟩ | ⟨x, y, n, -, -, ha, rfl⟩
  · exact ⟨rfl, hsp⟩
  · exact ⟨rfl, hsp⟩
  · rw [State.dataAddr_eq] at ha ⊢
    exact ⟨ha, by omega, by omega⟩
  · have := x.isLt
    rw [State.dataAddr_eq] at ha ⊢
    exact ⟨ha, by omega, by omega⟩
  · have := n.isLt
    rw [State.dataAddr_eq] at ha ⊢
    exact ⟨ha, by omega, by omega⟩

/-- Only Fx33 and Fx55 write memory, through consecutive writes (R46). -/
theorem State.completed_mem_wf {s : State} (h : s.mem.wf) (i : Instr) : (s.completed i).mem.wf := by
  cases i
  case ldB | ldMemVx => exact Memory.writeBytes_wf _ h _
  all_goals simpa [State.completed] using h

/-- Only CLS and DRW write the display (R100, R173). -/
theorem State.completed_disp_wf {s : State} (h : s.disp.wf) (i : Instr) : (s.completed i).disp.wf := by
  cases i
  case cls => exact Display.clear_wf h
  case drw => exact blit_wf h _ _ _ _ _
  all_goals simpa [State.completed] using h

/-- No instruction changes the dimensions (R6). -/
theorem State.completed_dimensions (s : State) (i : Instr) :
    (s.completed i).disp.width = s.disp.width ∧ (s.completed i).disp.height = s.disp.height := by
  cases i <;> simp [State.completed]

theorem State.push_sp_toNat {s : State} (w : Word) (h : s.sp ≠ 15#4) : (s.push w).sp.toNat = s.sp.toNat + 1 := by
  have hlt := s.sp.isLt
  have hne : s.sp.toNat ≠ 15 := fun e => h (BitVec.eq_of_toNat_eq e)
  rw [State.push_sp, BitVec.toNat_add]
  simp only [BitVec.toNat_ofNat]; omega

theorem State.pop_sp_toNat {s : State} (h : s.sp ≠ 0#4) : s.pop.sp.toNat = s.sp.toNat - 1 := by
  have hlt := s.sp.isLt
  have hne : s.sp.toNat ≠ 0 := fun e => h (BitVec.eq_of_toNat_eq e)
  rw [State.pop_sp, BitVec.toNat_sub]
  simp only [BitVec.toNat_ofNat]; omega

theorem State.cause_call_eq_none_iff {s : State} {nnn : Addr} : s.cause (.call nnn) = none ↔ s.sp ≠ 15#4 := by simp [State.cause]

theorem State.cause_ret_eq_none_iff {s : State} : s.cause .ret = none ↔ s.sp ≠ 0#4 := by simp [State.cause]

/-- CALL makes one cell live and puts its own address there, RET makes one cell dead (R17, R102, R103). -/
theorem State.completed_liveStackOk {s : State} {i : Instr} (h : s.liveStackOk) (hp : s.pc.toNat < 0xFFF) (hc : s.cause i = none) :
    (s.completed i).liveStackOk := by
  cases i
  case call nnn =>
    intro j hj hle
    have hsp := State.push_sp_toNat s.pc (State.cause_call_eq_none_iff.mp hc)
    have hstack : (s.completed (.call nnn)).stackAt j = if j = s.sp + 1#4 then s.pc else s.stackAt j := s.stackAt_push s.pc j
    rw [hstack]
    split
    · omega
    · rename_i hne
      have hne' : j.toNat ≠ (s.push s.pc).sp.toNat := fun e => hne (BitVec.eq_of_toNat_eq e)
      have hle' : j.toNat ≤ (s.push s.pc).sp.toNat := hle
      exact h j hj (by omega)
  case ret =>
    intro j hj hle
    have hle' : j.toNat ≤ s.pop.sp.toNat := hle
    rw [State.pop_sp_toNat (State.cause_ret_eq_none_iff.mp hc)] at hle'
    exact h j hj (by omega)
  all_goals exact State.liveStackOk_of_eq h (by simp [State.completed]) (by simp [State.completed])

/-- A fetched instruction lies at 0xFFE at most, so PC ends at most 4 above that, at a live return address plus 2, or at the largest
target of Bnnn, 0xFFF + 0xFF (R106). -/
theorem pcTable_le {s : State} {i : Instr} (h : s.liveStackOk) (hp : s.pc.toNat < 0xFFF) (hc : s.cause i = none) :
    (pcTable s i).toNat ≤ 0x10FE := by
  have h2 : (s.pc + 2#16).toNat ≤ 0x10FE := by rw [BitVec.toNat_add]; simp only [BitVec.toNat_ofNat]; omega
  have h4 : (s.pc + 4#16).toNat ≤ 0x10FE := by rw [BitVec.toNat_add]; simp only [BitVec.toNat_ofNat]; omega
  cases i
  case jp nnn | call nnn =>
    have := nnn.isLt
    simp only [pcTable, BitVec.toNat_ofNat]; omega
  case jpV0 x nnn =>
    have := nnn.isLt
    have := (s.reg x).isLt
    simp only [pcTable, BitVec.toNat_ofNat]; omega
  case ret =>
    have hsp : s.sp.toNat ≠ 0 := fun e => State.cause_ret_eq_none_iff.mp hc (BitVec.eq_of_toNat_eq e)
    have hlive := h s.sp (by omega) le_rfl
    simp only [pcTable, BitVec.toNat_add, BitVec.toNat_ofNat]; omega
  case seImm | sneImm | seReg | sneReg | skp | sknp => simp only [pcTable]; split <;> assumption
  all_goals exact h2

/-- The strengthened step of the induction: from a fetchable PC, with no fault latched. -/
theorem State.Inv.completed {s : State} {i : Instr} (h : s.Inv) (hp : s.pc.toNat < 0xFFF) (hf : s.fault = none) (hc : s.cause i = none) :
    (s.completed i).Inv where
  memory := State.completed_mem_wf h.memory i
  display := State.completed_disp_wf h.display i
  liveStack := State.completed_liveStackOk h.liveStack hp hc
  pcBound := s.completed_pc i ▸ pcTable_le h.liveStack hp hc
  faultFits := fun c hfault => by rw [State.completed_fault, hf] at hfault; cases hfault

/-! ### Steps and runs keep it -/

/-- Settles O30: path by path; the instruction that completes is fetched from a PC below 0xFFF, which bounds what it pushes and where it goes. -/
theorem stepKeepsInvariant : Obligations.StepKeepsInvariant := by
  intro s t hs h
  rcases step_next_cases h with
    ⟨-, rfl⟩ | ⟨-, r, k, -, rfl⟩ | ⟨-, hp, rfl⟩ | ⟨-, -, -, rfl⟩ | ⟨i, c, -, -, -, hc, rfl⟩ | ⟨i, ⟨hf, -⟩, hp, -, hc, rfl⟩
  · exact hs
  · exact hs.of_eq rfl rfl rfl rfl rfl rfl rfl
  · exact hs.beginStep.raise ⟨rfl, hp⟩
  · exact hs.of_eq rfl rfl rfl rfl rfl rfl rfl
  · exact hs.beginStep.raise (State.cause_fits (s.cause_beginStep i ▸ hc))
  · exact hs.beginStep.completed hp hf ((s.cause_beginStep i).trans hc)

theorem step_dimensions {s t : State} (h : step s = .next t) : t.disp.width = s.disp.width ∧ t.disp.height = s.disp.height := by
  rcases step_next_cases h with
    ⟨-, rfl⟩ | ⟨-, r, k, -, rfl⟩ | ⟨-, -, rfl⟩ | ⟨-, -, -, rfl⟩ | ⟨i, c, -, -, -, -, rfl⟩ | ⟨i, -, -, -, -, rfl⟩
  case inr.inr.inr.inr.inr => exact State.completed_dimensions s.beginStep i
  all_goals exact ⟨rfl, rfl⟩

/-- A press writes key flags and the latch, whatever the state (R161, R208). -/
theorem State.keyPress_eq (s : State) (k : Nibble) :
    s.keyPress k = { s with keys := (s.keyPress k).keys, latch := (s.keyPress k).latch } := by
  unfold State.keyPress; split <;> rfl

theorem State.Inv.apply {s t : State} (h : s.Inv) {op : HostOp} (hop : op.apply s = .next t) :
    t.Inv ∧ t.disp.width = s.disp.width ∧ t.disp.height = s.disp.height := by
  cases op with
  | step => exact ⟨stepKeepsInvariant s t h hop, step_dimensions hop⟩
  | keyPress k =>
    cases hop
    rw [State.keyPress_eq]
    exact ⟨h.of_eq rfl rfl rfl rfl rfl rfl rfl, rfl, rfl⟩
  | keyRelease k =>
    cases hop
    rw [State.keyRelease_eq]
    exact ⟨h.of_eq rfl rfl rfl rfl rfl rfl rfl, rfl, rfl⟩
  | read => cases hop; exact ⟨h, rfl, rfl⟩

/-- Settles O31: the invariant and the dimensions, from construction through every operation. -/
theorem reachableStatesMeetInvariant : Obligations.ReachableStatesMeetInvariant := by
  intro glyphs width height rom s hs
  obtain ⟨-, hw, hh, rfl⟩ := constructWith_eq_next_iff.mp hs
  refine runOps_induction (P := fun _ t => t.Inv ∧ t.disp.width = width ∧ t.disp.height = height) ?_ ?_
  · exact ⟨State.initial_inv hw hh (constructedMemory_wf glyphs rom), rfl, rfl⟩
  · rintro done op t ⟨hinv, htw, hth⟩
    obtain ⟨u, hu⟩ := op.apply_total t
    obtain ⟨hinvu, huw, huh⟩ := hinv.apply hu
    exact ⟨u, hu, hinvu, huw.trans htw, huh.trans hth⟩

end Sys2Proof.Machine
end

section
/-! What an instruction leaves alone, and what no instruction looks at (10_state.md R10 to R25). -/

namespace Sys2Proof.Machine

/-! ### Which instructions write which state -/

/-- The cell below the first frame is never pushed to: SP is raised first, and from 15 not at all (R17, R103). -/
theorem State.completed_stackAt_zero {s : State} {i : Instr} (hc : s.cause i = none) : (s.completed i).stackAt 0#4 = s.stackAt 0#4 := by
  cases i
  case call nnn =>
    have hsp := State.push_sp_toNat s.pc (State.cause_call_eq_none_iff.mp hc)
    refine (s.stackAt_push s.pc 0#4).trans (if_neg fun e => ?_)
    rw [State.push_sp, ← e] at hsp
    cases hsp
  all_goals exact State.stackAt_congr (by simp [State.completed]) _

/-- Six instructions can raise a cause (R204 to R206). -/
theorem raises_of_cause_eq_some {s : State} {i : Instr} {c : StickyCause} (h : s.cause i = some c) :
    i = .ret ∨ (∃ nnn, i = .call nnn) ∨ (∃ x y n, i = .drw x y n) ∨ ∃ x, i = .ldB x ∨ i = .ldMemVx x ∨ i = .ldVxMem x := by
  rcases State.cause_eq_some_iff.mp h with
    ⟨nnn, rfl, -⟩ | ⟨rfl, -⟩ | ⟨x, rfl, -⟩ | ⟨x, rfl | rfl, -⟩ | ⟨x, y, n, rfl, -⟩ <;> simp

/-- Settles O27: a raised cause writes the fault latch alone; an instruction that completes is read field by field off its completed state. -/
theorem onlyTheseInstructionsWrite : Obligations.OnlyTheseInstructionsWrite := by
  intro i s t h
  rcases exec_next_cases h with ⟨c, hc, rfl⟩ | ⟨hc, rfl⟩
  · simpa [State.stackAt] using fun _ => raises_of_cause_eq_some hc
  · rw [State.completed_stackAt_zero hc]
    cases i <;> simp [State.completed]

/-! ### Which registers -/

/-- A register that is not among an instruction's destinations is kept (R10, R11). -/
theorem State.completed_reg {s : State} {i : Instr} {r : Nibble} (h : ¬mayWriteReg r i) : (s.completed i).reg r = s.reg r := by
  cases i
  case ldImm | addImm | ldReg | ldVxDt => exact (State.reg_setReg ..).trans (if_neg h)
  case rnd => exact ((State.reg_setReg ..).trans (if_neg h)).trans (State.reg_congr s.afterDraw_v r)
  case orReg | andReg | xorReg | addReg | subReg | shr | subnReg | shl =>
    obtain ⟨hx, hvf⟩ := not_or.mp h
    exact (State.reg_setResultThenFlag ..).trans ((if_neg hvf).trans (if_neg hx))
  case drw => exact (State.reg_setVF ..).trans (if_neg h)
  case ldVxMem x =>
    have hr : ¬r.toNat < x.toNat + 1 := fun e => h (Nat.lt_succ_iff.mp e)
    exact (State.reg_loadRegs _ _ _ x.isLt _).trans (if_neg hr)
  all_goals rfl

/-- Settles O28: a raised cause writes no register, and an instruction that completes only its destinations. -/
theorem onlyTheseRegistersChange : Obligations.OnlyTheseRegistersChange := by
  intro i s t r h hne
  rcases exec_next_cases h with ⟨c, -, rfl⟩ | ⟨-, rfl⟩
  · exact absurd rfl hne
  · exact by_contra fun hr => hne (State.completed_reg hr)

/-! ### What no instruction looks at -/

/-- `s` with other values in the places a program cannot observe: ST, `stack[0]`, the render flag and the report log (R15, R17, R19, R25). -/
def State.withHidden (s : State) (w : Word) (b : Byte) (f : Bool) (ws : List Word) : State :=
  { s with st := b, stack := s.stack.set 0 w, render := f, reports := ws }

/-- `s'` differs from `s` only there, `stack[0]` being `w` in `s'`. -/
def DiffersInHidden (w : Word) (s s' : State) : Prop := ∃ b f ws, s' = s.withHidden w b f ws

section
variable {w : Word} {s s' : State}

theorem DiffersInHidden.beginStep (h : DiffersInHidden w s s') : DiffersInHidden w s.beginStep s'.beginStep := by
  obtain ⟨b, f, ws, rfl⟩ := h
  exact ⟨tick b, false, ws, rfl⟩

theorem DiffersInHidden.cause (h : DiffersInHidden w s s') (i : Instr) : s'.cause i = s.cause i := by
  obtain ⟨b, f, ws, rfl⟩ := h
  cases i <;> rfl

theorem State.stackAt_withHidden {j : Nibble} (hj : j ≠ 0#4) (b : Byte) (f : Bool) (ws : List Word) :
    (s.withHidden w b f ws).stackAt j = s.stackAt j := by
  have hne : 0 ≠ j.toNat := fun e => hj (BitVec.eq_of_toNat_eq e.symm)
  exact Vector.getElem_set_ne (by decide) j.isLt hne

/-- A push writes above `stack[0]`, so the order of the two writes does not matter (R103). -/
theorem State.push_withHidden (hsp : s.sp ≠ 15#4) (pc : Word) (b : Byte) (f : Bool) (ws : List Word) :
    (s.withHidden w b f ws).push pc = (s.push pc).withHidden w b f ws := by
  have hne : 0 ≠ (s.sp + 1#4).toNat := by
    have := State.push_sp_toNat pc hsp
    rw [State.push_sp] at this
    omega
  simp only [State.push, State.withHidden, Vector.set_comm _ _ hne]

theorem State.afterDraw_withHidden (b : Byte) (f : Bool) (ws : List Word) :
    (s.withHidden w b f ws).afterDraw = s.afterDraw.withHidden w b f ws := by
  simp only [State.afterDraw, State.withHidden]
  split <;> rfl

theorem State.loadRegs_withHidden (base n : Nat) (b : Byte) (f : Bool) (ws : List Word) :
    (s.withHidden w b f ws).loadRegs base n = (s.loadRegs base n).withHidden w b f ws := by
  induction n with
  | zero => rfl
  | succ n ih => rw [State.loadRegs, ih]; rfl

/-- Of the hidden places an instruction reads none; CLS and DRW set `render` and Fx18 sets ST, to the same value on both sides. -/
theorem DiffersInHidden.completed (h : DiffersInHidden w s s') {i : Instr} (hc : s.cause i = none) :
    DiffersInHidden w (s.completed i) (s'.completed i) := by
  obtain ⟨b, f, ws, rfl⟩ := h
  cases i
  case cls | drw => exact ⟨b, true, ws, rfl⟩
  case ldStVx x => exact ⟨s.reg x, f, ws, rfl⟩
  case ret =>
    have hsp := State.cause_ret_eq_none_iff.mp hc
    refine ⟨b, f, ws, ?_⟩
    exact congrArg (fun pc => ((s.withHidden w b f ws).pop).setPc (pc + 2#16)) (State.stackAt_withHidden hsp b f ws)
  case call nnn =>
    refine ⟨b, f, ws, ?_⟩
    exact congrArg (fun t : State => t.setPc (zextAddr nnn)) (State.push_withHidden (State.cause_call_eq_none_iff.mp hc) s.pc b f ws)
  case rnd x kk =>
    refine ⟨b, f, ws, ?_⟩
    exact congrArg (fun t : State => (t.setReg x (s.nextRandom &&& kk)).advance 2#16) (State.afterDraw_withHidden b f ws)
  case ldVxMem x =>
    refine ⟨b, f, ws, ?_⟩
    exact congrArg (fun t : State => (t.setI (s.i + (x.setWidth 16 + 1#16))).advance 2#16) (State.loadRegs_withHidden _ _ b f ws)
  all_goals exact ⟨b, f, ws, rfl⟩

theorem DiffersInHidden.step {t : State} (h : DiffersInHidden w s s') (hs : step s = .next t) :
    ∃ t', Sys2Proof.Machine.step s' = .next t' ∧ DiffersInHidden w t t' := by
  obtain ⟨b, f, ws, rfl⟩ := id h
  have hdec : s.decodesNext → (s.withHidden w b f ws).decodesNext := id
  rcases step_next_cases hs with
    ⟨hig, rfl⟩ | ⟨hf, r, k, hl, rfl⟩ | ⟨hrun, hp, rfl⟩ | ⟨hrun, hp, hd, rfl⟩ | ⟨i, c, hrun, hp, hd, hc, rfl⟩ |
    ⟨i, hrun, hp, hd, hc, rfl⟩
  · exact ⟨_, ignoredStepChangesNothing _ hig.symm, h⟩
  · exact ⟨_, step_of_pending hf hl, tick b, false, ws, rfl⟩
  · exact ⟨_, step_of_fetchDecode_outOfRange (hdec hrun) (State.fetchDecode_of_outOfRange hp), tick b, false, ws, rfl⟩
  · have hfd := State.fetchDecode_of_none (s := s.withHidden w b f ws) (s.canFetch_iff.mpr hp) hd
    exact ⟨_, step_of_fetchDecode_invalid (hdec hrun) hfd, tick b, false, s.fetchWord :: ws, rfl⟩
  · have hfd := State.fetchDecode_of_some (s := s.withHidden w b f ws) (s.canFetch_iff.mpr hp) hd
    have hc' := (h.beginStep.cause i).trans ((s.cause_beginStep i).trans hc)
    exact ⟨_, (step_of_fetchDecode_instr (hdec hrun) hfd).trans (exec_of_cause_some hc'), tick b, false, ws, rfl⟩
  · have hfd := State.fetchDecode_of_some (s := s.withHidden w b f ws) (s.canFetch_iff.mpr hp) hd
    have hc₀ := (s.cause_beginStep i).trans hc
    have hc' := (h.beginStep.cause i).trans hc₀
    exact ⟨_, (step_of_fetchDecode_instr (hdec hrun) hfd).trans (exec_of_cause_none hc'), h.beginStep.completed hc₀⟩

end

/-- Settles O29: the two steps take the same path, since none of the four places is asked for it, and end in states that differ only there. -/
theorem hiddenStateNeverObserved : Obligations.HiddenStateNeverObserved := by
  intro s t b w f ws h
  have hdiff : DiffersInHidden w s (s.withHidden w b f ws) := ⟨b, f, ws, rfl⟩
  obtain ⟨t', ht', b', f', ws', rfl⟩ := hdiff.step h
  exact ⟨_, ht', rfl⟩

end Sys2Proof.Machine
end

section
/-! The result of an instruction on PC, the stack, one register or the latch (41_control_flow.md, 42_skip_load_alu.md, 44_timer_input.md): the word
is an encoding (`decodeWord_encode`), and where no cause is raised the instruction ends in its completed state (`exec_eq`). -/

namespace Sys2Proof.Machine

theorem completes_of_cause_none {i : Instr} {s : State} {P : State → Prop} (h : s.cause i = none) (hP : P (s.completed i)) :
    Completes i s P := ⟨_, exec_of_cause_none h, hP⟩

/-! ### Control flow -/

/-- Settles O34: one write of the display and one of `render`, asked of nothing. -/
theorem clsResult : Obligations.ClsResult := by
  intro s
  refine ⟨decodeWord_encode (i := .cls) rfl, completes_of_cause_none rfl ?_⟩
  exact ⟨Display.clear_cell _, rfl, rfl, rfl, rfl, rfl, fun _ => rfl⟩

/-- Settles O35: one write of PC; a 12-bit address is too high for a fetch only if it is the last. -/
theorem jpResult : Obligations.JpResult := by
  intro nnn s
  refine ⟨decodeWord_encode (i := .jp nnn) rfl, completes_of_cause_none rfl ?_⟩
  have hpc : (s.completed (.jp nnn)).pc.toNat = nnn.toNat := zextAddr_toNat nnn
  refine ⟨hpc, ⟨rfl, fun _ => rfl⟩, ?_⟩
  have := nnn.isLt
  rw [← Bool.not_eq_true, State.canFetch_iff, hpc, ← BitVec.toNat_inj, BitVec.toNat_ofNat]
  omega

/-- Settles O36: a pop and a write of PC, unless the stack is empty. -/
theorem retResult : Obligations.RetResult := by
  intro s
  refine ⟨decodeWord_encode (i := .ret) rfl, fun hsp => ?_, fun hsp => ?_⟩
  · exact completes_of_cause_none (State.cause_ret_eq_none_iff.mpr hsp) ⟨rfl, State.pop_sp_toNat hsp, rfl, fun _ => rfl⟩
  · exact exec_of_cause_some (if_pos hsp)

/-- Settles O37: a push and a write of PC, unless the stack is full. -/
theorem callResult : Obligations.CallResult := by
  intro nnn s
  refine ⟨decodeWord_encode (i := .call nnn) rfl, fun hsp => ?_, fun hsp => ?_⟩
  · refine completes_of_cause_none (State.cause_call_eq_none_iff.mpr hsp) ?_
    refine ⟨zextAddr_toNat nnn, State.push_sp_toNat s.pc hsp, ?_, fun j hj => ?_, rfl, fun _ => rfl⟩
    · exact (s.stackAt_push s.pc _).trans (if_pos rfl)
    · exact (s.stackAt_push s.pc j).trans (if_neg hj)
  · exact exec_of_cause_some (if_pos hsp)

/-- Settles O38: one write of PC with a sum that does not wrap. -/
theorem jpV0Result : Obligations.JpV0Result := by
  intro nnn s
  refine ⟨decodeWord_encode (i := .jpV0 _ nnn) (beq_self_eq_true _), completes_of_cause_none rfl ?_⟩
  have hpc := jpV0_target_toNat nnn (s.reg (nnn.extractLsb' 8 4))
  have := nnn.isLt
  have := (s.reg (nnn.extractLsb' 8 4)).isLt
  exact ⟨hpc, hpc.trans_le (by omega), rfl, fun _ => rfl⟩

/-! ### Skips -/

/-- A skip on a condition `c`, whose Boolean form the instruction tests. -/
theorem completes_of_skipIf {i : Instr} {s : State} {b : Bool} {c : Prop} [Decidable c] (h : exec i s = .next (s.skipIf b)) (hb : b = decide c) :
    Completes i s fun t => t.pc = s.pc + (if c then 4#16 else 2#16) ∧ onlyPc s t := by
  subst hb
  refine ⟨_, h, ?_, rfl, fun _ => rfl⟩
  simp only [State.skipIf_pc, decide_eq_true_eq]

/-- The opposite polarity. -/
theorem completes_of_skipIf_not {i : Instr} {s : State} {b : Bool} {c : Prop} [Decidable c] (h : exec i s = .next (s.skipIf b))
    (hb : b = !decide c) : Completes i s fun t => t.pc = s.pc + (if c then 2#16 else 4#16) ∧ onlyPc s t := by
  simpa only [ite_not] using completes_of_skipIf (c := ¬c) h (hb.trans (by simp))

/-- Settles O39: four skips, two on equality and two on inequality. -/
theorem registerSkips : Obligations.RegisterSkips := by
  intro x y kk s
  refine ⟨⟨?_, ?_⟩, ⟨?_, ?_⟩, ⟨?_, ?_⟩, ?_, ?_⟩
  · exact decodeWord_encode (i := .seImm x kk) rfl
  · exact completes_of_skipIf (exec_eq _ s) rfl
  · exact decodeWord_encode (i := .sneImm x kk) rfl
  · exact completes_of_skipIf_not (exec_eq _ s) rfl
  · exact decodeWord_encode (i := .seReg x y) rfl
  · exact completes_of_skipIf (exec_eq _ s) rfl
  · exact decodeWord_encode (i := .sneReg x y) rfl
  · exact completes_of_skipIf_not (exec_eq _ s) rfl

/-- The key selected by a register is the one its value modulo 16 names (R153, D13). -/
theorem keyIndex_eq_ofNat_mod (b : Byte) : keyIndex b = BitVec.ofNat 4 (b.toNat % 16) := by
  rw [keyIndex_eq_ofNat]
  apply BitVec.eq_of_toNat_eq
  rw [BitVec.toNat_ofNat, BitVec.toNat_ofNat, Nat.mod_mod]

/-- Settles O55: two skips on the level of one key. -/
theorem keySkips : Obligations.KeySkips := by
  intro x s
  rw [← keyIndex_eq_ofNat_mod]
  refine ⟨⟨?_, ?_⟩, ?_, ?_⟩
  · exact decodeWord_encode (i := .skp x) rfl
  · exact completes_of_skipIf (execSkp_eq x s) (by simp)
  · exact decodeWord_encode (i := .sknp x) rfl
  · exact completes_of_skipIf_not (execSknp_eq x s) (by simp)

/-! ### Registers -/

/-- Settles O42: one register write of the other register's value. -/
theorem copyRegisterResult : Obligations.CopyRegisterResult := by
  intro x y s
  exact ⟨decodeWord_encode (i := .ldReg x y) rfl, completes_of_setReg (exec_eq (.ldReg x y) s)⟩

/-- Settles O43: three results followed by the flag 0. -/
theorem logicClearsVF : Obligations.LogicClearsVF := by
  intro x y s
  refine ⟨⟨?_, ?_⟩, ⟨?_, ?_⟩, ?_, ?_⟩
  · exact decodeWord_encode (i := .orReg x y) rfl
  · exact completes_of_setResultThenFlag (exec_eq (.orReg x y) s)
  · exact decodeWord_encode (i := .andReg x y) rfl
  · exact completes_of_setResultThenFlag (exec_eq (.andReg x y) s)
  · exact decodeWord_encode (i := .xorReg x y) rfl
  · exact completes_of_setResultThenFlag (exec_eq (.xorReg x y) s)

theorem toNat_flagByte (b : Bool) : (flagByte b).toNat = b.toNat := by cases b <;> rfl

theorem toNat_flagByte_lowBit (a : Byte) : (flagByte (lowBit a)).toNat = a.toNat % 2 := by
  rw [toNat_flagByte, lowBit, BitVec.getLsbD, Nat.toNat_testBit, pow_zero, Nat.div_one]

theorem toNat_flagByte_highBit (a : Byte) : (flagByte (highBit a)).toNat = a.toNat / 128 := by
  have := a.isLt
  rw [toNat_flagByte, highBit, BitVec.getLsbD, Nat.toNat_testBit]
  omega

theorem toNat_shiftRight_one (a : Byte) : (a >>> 1).toNat = a.toNat / 2 := by
  rw [BitVec.toNat_ushiftRight, Nat.shiftRight_one]

theorem toNat_shiftLeft_one (a : Byte) : (a <<< 1).toNat = a.toNat * 2 % 256 := by
  rw [BitVec.toNat_shiftLeft, Nat.shiftLeft_eq, pow_one]

/-- Settles O46: half and double on numbers, and the bit that falls off each end. -/
theorem shiftResults : Obligations.ShiftResults := by
  intro x y s
  refine ⟨⟨decodeWord_encode (i := .shr x y) rfl, ?_⟩, decodeWord_encode (i := .shl x y) rfl, ?_⟩
  · refine (completes_of_setResultThenFlag (exec_eq (.shr x y) s)).mono ?_
    rintro t ⟨hresult, hflag, hframe⟩
    exact ⟨fun hx => hresult hx ▸ toNat_shiftRight_one _, hflag ▸ toNat_flagByte_lowBit _, hframe⟩
  · refine (completes_of_setResultThenFlag (exec_eq (.shl x y) s)).mono ?_
    rintro t ⟨hresult, hflag, hframe⟩
    exact ⟨fun hx => hresult hx ▸ toNat_shiftLeft_one _, hflag ▸ toNat_flagByte_highBit _, hframe⟩

/-- Cxkk in terms of the byte drawn and the state after the draw (R127). -/
theorem exec_rnd (x : Nibble) (kk : Byte) (s : State) :
    exec (.rnd x kk) s = .next ((s.afterDraw.setReg x (s.nextRandom &&& kk)).advance 2#16) := rfl

/-- Settles O47: one register write after the draw, which takes a supplied byte off the list or counts a free one. -/
theorem randomResult : Obligations.RandomResult := by
  intro x kk b s
  have hframe (t : State) : sameRegsExcept [x] t (t.completed (.rnd x kk)) := fun q hq =>
    State.completed_reg (List.ne_of_not_mem_cons hq)
  refine ⟨decodeWord_encode (i := .rnd x kk) rfl, ?_, ?_⟩
  · exact ⟨_, exec_rnd .., State.reg_setReg_self .., hframe { s with randomInput := b :: s.randomInput }, rfl, rfl, fun _ => rfl⟩
  · refine ⟨_, exec_rnd .., ⟨s.nextRandom, State.reg_setReg_self ..⟩, hframe s, ?_, ?_, fun _ => ?_⟩
    · simp
    · rw [State.afterDraw_eq]; rfl
    · simp

/-! ### I and the latch -/

/-- The sum of I and a register, cut to 16 bits (R141). -/
theorem toNat_add_zextByte (w : Word) (b : Byte) : (w + zextByte b).toNat = (w.toNat + b.toNat) % 65536 := by
  rw [BitVec.toNat_add, zextByte, BitVec.toNat_setWidth_of_le (by decide)]

/-- Five times a byte fits 16 bits (R142). -/
theorem glyphAddr_toNat (b : Byte) : (glyphAddr b).toNat = 5 * b.toNat := by
  have := b.isLt
  rw [glyphAddr, zextByte, BitVec.toNat_mul, BitVec.toNat_setWidth_of_le (by decide), BitVec.toNat_ofNat]
  omega

/-- Settles O49: two writes of I alone. -/
theorem indexArithmeticResults : Obligations.IndexArithmeticResults := by
  intro x s
  refine ⟨⟨decodeWord_encode (i := .addI x) rfl, ?_⟩, decodeWord_encode (i := .ldF x) rfl, ?_⟩
  · refine (completes_of_setI (exec_eq (.addI x) s)).mono ?_
    rintro t ⟨hi, hframe⟩
    exact ⟨hi ▸ toNat_add_zextByte _ _, hframe⟩
  · refine (completes_of_setI (exec_eq (.ldF x) s)).mono ?_
    rintro t ⟨hi, hframe⟩
    exact ⟨hi ▸ glyphAddr_toNat _, hframe⟩

/-- Settles O56: one write of the latch, which makes the next step an ignored one. -/
theorem waitKeyResult : Obligations.WaitKeyResult := by
  intro x s
  refine ⟨decodeWord_encode (i := .ldVxK x) rfl, completes_of_cause_none rfl ?_⟩
  exact ⟨rfl, rfl, rfl, rfl, fun _ => rfl, ignoredStepChangesNothing _ (.inl ⟨x, rfl⟩)⟩

end Sys2Proof.Machine
end

section
/-! The results of the instructions that move bytes between registers and memory (43_memory_index.md R143 to R145, 20_memory.md R51). -/

namespace Sys2Proof.Machine

/-- The advance of I by x + 1 does not wrap where the last address is a cell (R144, R145). -/
theorem State.indexAdvance_toNat {s : State} {x : Nibble} (h : s.dataAddr x.toNat ≤ 0xFFF) :
    (s.i + (x.setWidth 16 + 1#16)).toNat = s.i.toNat + x.toNat + 1 := by
  have := x.isLt
  rw [State.dataAddr_eq] at h
  rw [BitVec.toNat_add, BitVec.toNat_add, BitVec.toNat_setWidth_of_le (by decide), BitVec.toNat_ofNat]
  omega

theorem regOfNat_toNat (r : Nibble) : regOfNat r.toNat = r := by rw [regOfNat, BitVec.ofNat_toNat, BitVec.setWidth_eq]

theorem State.length_regsUpTo (s : State) (x : Nibble) : (s.regsUpTo x).length = x.toNat + 1 := by simp [State.regsUpTo]

/-- Byte `r` of the block Fx55 stores is `V[r]` (R144). -/
theorem State.read_writeBytes_regsUpTo {s : State} {x r : Nibble} (h : s.dataAddr x.toNat ≤ 0xFFF) (hr : r.toNat ≤ x.toNat) :
    (s.mem.writeBytes (s.dataAddr 0) (s.regsUpTo x)).read (s.dataAddr r.toNat) = s.reg r := by
  have hlen := s.length_regsUpTo x
  rw [State.dataAddr_eq] at h
  have hread := Memory.read_writeBytes_inside (s.regsUpTo x) s.mem (s.dataAddr 0) r.toNat (by omega)
    (by rw [hlen, State.dataAddr_eq, Config.memSize]; omega)
  simpa [State.regsUpTo, regOfNat_toNat, State.dataAddr_eq] using hread

/-- Settles O51: a checked block of consecutive writes, then I moved behind it. -/
theorem storeRegistersResult : Obligations.StoreRegistersResult := by
  intro x s
  refine ⟨decodeWord_encode (i := .ldMemVx x) rfl, fun h => completes_of_cause_none (dataCause_of_le h) ?_,
    fun h => exec_of_cause_some (dataCause_of_lt h)⟩
  refine ⟨fun r hr => State.read_writeBytes_regsUpTo h hr, fun a ha => ?_, State.indexAdvance_toNat h, rfl, rfl⟩
  exact Memory.read_writeBytes_outside _ _ _ _ (by rwa [State.length_regsUpTo])

/-- Settles O32: the stored bytes are where the fetch reads them, and a fetch from two other cells reads what was there. -/
theorem storeSeenByNextFetch : Obligations.StoreSeenByNextFetch := by
  intro x s h
  have hx := x.isLt
  refine ((storeRegistersResult x s).2.1 h).mono ?_
  rintro t ⟨hstored, hframe, -⟩
  refine ⟨fun j hj => ?_, fun p hp => ?_⟩
  · have hnum : ∀ k, k ≤ x.toNat → (BitVec.ofNat 4 k).toNat = k := fun k hk => by rw [BitVec.toNat_ofNat]; omega
    have hj₀ := hstored (BitVec.ofNat 4 j) (by rw [hnum j (by omega)]; omega)
    have hj₁ := hstored (BitVec.ofNat 4 (j + 1)) (by rw [hnum _ hj]; exact hj)
    rw [hnum j (by omega)] at hj₀
    rw [hnum _ hj] at hj₁
    have hpc : (BitVec.ofNat 16 (s.dataAddr j)).toNat = s.dataAddr j := by
      rw [State.dataAddr_eq] at h ⊢
      rw [BitVec.toNat_ofNat]; omega
    rw [← hj₀, ← hj₁, State.fetchWord, State.setPc_pc, hpc]; rfl
  · rw [State.dataAddr_eq, State.dataAddr_eq] at hp
    rw [State.fetchWord, State.fetchWord, State.setPc_pc, State.setPc_pc, State.setPc_mem, State.setPc_mem,
      hframe p.toNat (by rw [State.dataAddr_eq]; omega), hframe (p.toNat + 1) (by rw [State.dataAddr_eq]; omega)]

/-- Settles O52: a checked block of register writes from memory, then I moved behind it. -/
theorem loadRegistersResult : Obligations.LoadRegistersResult := by
  intro x s
  refine ⟨decodeWord_encode (i := .ldVxMem x) rfl, fun h => completes_of_cause_none (dataCause_of_le h) ?_,
    fun h => exec_of_cause_some (dataCause_of_lt h)⟩
  have hreg (r : Nibble) : (s.completed (.ldVxMem x)).reg r = if r.toNat < x.toNat + 1 then s.mem.read (s.dataAddr r.toNat) else s.reg r :=
    State.reg_loadRegs s (s.dataAddr 0) (x.toNat + 1) x.isLt r
  refine ⟨fun r hr => ?_, fun r hr => ?_, ?_, s.completed_pc _, ?_, fun a => ?_⟩
  · rw [hreg, if_pos (by omega)]
  · rw [hreg, if_neg (by omega)]
  · exact State.indexAdvance_toNat h
  · rw [State.completed, State.loadRegs_eq]; rfl
  · simp [State.completed]

/-- Settles O50: three checked writes of the decimal digits, I left where it is. -/
theorem storeDigitsResult : Obligations.StoreDigitsResult := by
  intro x s
  refine ⟨decodeWord_encode (i := .ldB x) rfl, fun h => completes_of_cause_none (dataCause_of_le h) ?_,
    fun h => exec_of_cause_some (dataCause_of_lt h)⟩
  have hlt := (s.reg x).isLt
  have hread (j : Nat) (hj : j < 3) :
      (s.completed (.ldB x)).mem.read (s.dataAddr j) = (bcdDigits (s.reg x))[j]'hj :=
    Memory.read_writeBytes_inside (bcdDigits (s.reg x)) s.mem (s.dataAddr 0) j hj (Nat.succ_le_succ h)
  refine ⟨?_, ?_, ?_, fun a ha => ?_, rfl, rfl⟩
  · rw [hread 0 (by decide)]
    exact (BitVec.toNat_ofNat ..).trans (Nat.mod_eq_of_lt (by omega))
  · rw [hread 1 (by decide)]
    exact (BitVec.toNat_ofNat ..).trans (Nat.mod_eq_of_lt (by omega))
  · rw [hread 2 (by decide)]
    exact (BitVec.toNat_ofNat ..).trans (Nat.mod_eq_of_lt (by omega))
  · exact Memory.read_writeBytes_outside _ _ _ _ ha

end Sys2Proof.Machine
end

section
/-! What the two open parameters decide (00_scope.md R7; D13, D16): where the cycle, the decoder and the dispatch under other values part from
those of the machine. -/

namespace Sys2Proof

theorem wfWith_false_iff (i : Instr) : i.wfWith false = true ↔ i.wfWith true = true ∧ ∀ x y, i ≠ .ldReg x y := by
  cases i <;> simp [Instr.wfWith]

/-- `HAS_LD_VX_VY` decides the words 8xy0 and no other (D16). -/
theorem decodeWordWith_eq_decodeWord {hasLd : Bool} {w : Word} (h : hasLd = false → ∀ x y : Nibble, w ≠ 0x8#4 ++ x ++ y ++ 0x0#4) :
    decodeWordWith hasLd w = decodeWord w := by
  cases hasLd with
  | true => rfl
  | false =>
    apply Option.ext
    intro i
    rw [decodeWord, Config.hasLdVxVy, decodeWordWith_eq_some_iff, decodeWordWith_eq_some_iff, wfWith_false_iff, and_assoc]
    refine and_congr_right fun _ => and_iff_right_of_imp ?_
    rintro rfl x y rfl
    exact h rfl x y rfl

theorem decodeWordWith_false_8xy0 (x y : Nibble) : decodeWordWith false (0x8#4 ++ x ++ y ++ 0x0#4) = none := by
  simp [decodeWordWith, decodeFamily8]

end Sys2Proof

namespace Sys2Proof.Machine

/-- `KEY_INDEX_POLICY` decides Ex9E and ExA1 with a value above 15 and nothing else (D13). -/
theorem execWith_eq_exec {policy : Config.KeyIndexPolicy} {i : Instr} {s : State}
    (h : policy = .refuse → ∀ x, i = .skp x ∨ i = .sknp x → (s.reg x).toNat ≤ 15) : execWith policy i s = exec i s := by
  cases policy with
  | mask => exact execWith_mask i s
  | refuse =>
    cases i
    case skp x => rw [execWith_skp, checkKeyIndex_refuse, if_neg (Nat.not_lt.mpr (h rfl x (.inl rfl)))]; rfl
    case sknp x => rw [execWith_sknp, checkKeyIndex_refuse, if_neg (Nat.not_lt.mpr (h rfl x (.inr rfl)))]; rfl
    all_goals rfl

/-- Steps 4 and 5 of the cycle, after the fetch: what is done in state `t` with what was found (R84, R85). -/
def Fetched.follow (execute : Instr → State → Result) (t : State) : Fetched → Result
  | .outOfRange pc => t.raise (.fetchAddressOutOfRange pc)
  | .invalid w => .next (t.reportInvalid w)
  | .instr i => execute i t

/-- A cycle that decodes is its fetch and what follows from it (R87). -/
theorem State.cycle_of_decodesNext {s : State} (h : s.decodesNext) (fetched : State → Fetched) (execute : Instr → State → Result) :
    s.cycle fetched execute = (fetched s.beginStep).follow execute s.beginStep := by
  have hig := State.ignoresStep_of_decodesNext h
  have hcommit : s.beginStep.commitPending = none := by simp [State.commitPending, h.2]
  rw [State.cycle, if_neg (by simp [hig]), hcommit]
  cases fetched s.beginStep <;> rfl

@[simp] theorem State.fetchDecodeWith_beginStep (s : State) (hasLd : Bool) :
    s.beginStep.fetchDecodeWith hasLd = s.fetchDecodeWith hasLd := rfl

/-- Two cycles differ at most where they decode, and there by what is fetched and by how it is executed. -/
theorem State.cycle_congr {s : State} {fetched fetched' : State → Fetched} {execute execute' : Instr → State → Result}
    (hf : s.decodesNext → fetched s.beginStep = fetched' s.beginStep)
    (he : ∀ i, s.decodesNext → fetched' s.beginStep = .instr i → execute i s.beginStep = execute' i s.beginStep) :
    s.cycle fetched execute = s.cycle fetched' execute' := by
  by_cases hrun : s.decodesNext
  · rw [State.cycle_of_decodesNext hrun, State.cycle_of_decodesNext hrun, hf hrun]
    cases hi : fetched' s.beginStep with
    | outOfRange | invalid => rfl
    | instr i => exact he i hrun hi
  · unfold State.cycle
    split
    · rfl
    · rename_i hig
      rw [State.ignoresStep_iff, not_or, not_not] at hig
      obtain ⟨hfault, hawait⟩ := hig
      cases hl : s.latch with
      | running => exact absurd ⟨hfault, hl⟩ hrun
      | awaitingKey r => exact absurd ⟨r, hl⟩ hawait
      | pending r k => simp [State.commitPending, hl]

theorem State.fetchDecodeWith_of_canFetch {s : State} (hc : s.canFetch = true) (hasLd : Bool) :
    s.fetchDecodeWith hasLd = (decodeWordWith hasLd s.fetchWord).elim (.invalid s.fetchWord) .instr := by
  rw [State.fetchDecodeWith, if_pos hc]
  cases decodeWordWith hasLd s.fetchWord <;> rfl

/-- Without `HAS_LD_VX_VY` a word 8xy0 takes the invalid-opcode path (R7, D16). -/
theorem stepWith_of_8xy0 {p : Config.Params} {s : State} (hp : p.hasLdVxVy = false) (hrun : s.decodesNext) (hc : s.canFetch = true)
    {x y : Nibble} (hw : s.fetchWord = 0x8#4 ++ x ++ y ++ 0x0#4) : stepWith p s = .next (s.beginStep.reportInvalid s.fetchWord) := by
  have hfd : s.beginStep.fetchDecodeWith p.hasLdVxVy = .invalid s.fetchWord := by
    rw [State.fetchDecodeWith_beginStep, State.fetchDecodeWith_of_canFetch hc, hp, hw, decodeWordWith_false_8xy0]; rfl
  rw [stepWith, State.cycle_of_decodesNext hrun, hfd, Fetched.follow]

/-- A fetched instruction is well formed whatever `HAS_LD_VX_VY` is, if it is no 8xy0, and is executed under the policy (R7). -/
theorem stepWith_of_encode {p : Config.Params} {s : State} (hrun : s.decodesNext) (hc : s.canFetch = true) {i : Instr}
    (hwf : i.wfWith p.hasLdVxVy = true) (hw : s.fetchWord = encode i) : stepWith p s = execWith p.keyIndexPolicy i s.beginStep := by
  have hfd : s.beginStep.fetchDecodeWith p.hasLdVxVy = .instr i := by
    rw [State.fetchDecodeWith_beginStep, State.fetchDecodeWith_of_canFetch hc, hw, decodeWordWith_encode hwf]; rfl
  rw [stepWith, State.cycle_of_decodesNext hrun, hfd, Fetched.follow]

theorem stepWith_eq_step {p : Config.Params} {s : State}
    (hld : p.hasLdVxVy = false → s.decodesNext → s.canFetch = true → ∀ x y : Nibble, s.fetchWord ≠ 0x8#4 ++ x ++ y ++ 0x0#4)
    (hkey : p.keyIndexPolicy = .refuse → s.decodesNext → s.canFetch = true → ∀ x : Nibble,
      s.fetchWord = 0xE#4 ++ x ++ 0x9E#8 ∨ s.fetchWord = 0xE#4 ++ x ++ 0xA1#8 → (s.reg x).toNat ≤ 15) :
    stepWith p s = step s := by
  refine State.cycle_congr (fun hrun => ?_) fun i hrun hi => execWith_eq_exec fun hp x hx => ?_
  · rw [State.fetchDecode, State.fetchDecodeWith_beginStep, State.fetchDecodeWith_beginStep]
    by_cases hc : s.canFetch = true
    · rw [State.fetchDecodeWith_of_canFetch hc, State.fetchDecodeWith_of_canFetch hc,
        decodeWordWith_eq_decodeWord fun hp => hld hp hrun hc]; rfl
    · rw [State.fetchDecodeWith, State.fetchDecodeWith, if_neg hc, if_neg hc]
  · have hfetched := s.fetchDecode_cases
    rw [← State.fetchDecode_beginStep, hi] at hfetched
    obtain ⟨hpc, hd⟩ : s.pc.toNat < 0xFFF ∧ decodeWord s.fetchWord = some i := by simpa using hfetched
    have hw := (encode_of_decodeWordWith hd).2
    exact hkey hp hrun (s.canFetch_iff.mpr hpc) x (hx.imp (fun e => by rw [← hw, e]; rfl) fun e => by rw [← hw, e]; rfl)

/-- Settles O60: the two words at which the parametrised cycle parts from the machine's, and that it does nowhere else. -/
theorem parametersDecideOnlyTheirPoint : Obligations.ParametersDecideOnlyTheirPoint := by
  intro p s
  refine ⟨fun hp hrun hc x y hw => ?_, fun hp hrun hc x hw hx => ?_, stepWith_eq_step⟩
  · rw [stepWith_of_8xy0 hp hrun hc hw, State.beginStep_eq]; rfl
  · rcases hw with hw | hw
    · rw [stepWith_of_encode (i := .skp x) hrun hc rfl hw, hp, execWith_skp, checkKeyIndex_refuse, State.reg_beginStep, if_pos hx]
    · rw [stepWith_of_encode (i := .sknp x) hrun hc rfl hw, hp, execWith_sknp, checkKeyIndex_refuse, State.reg_beginStep, if_pos hx]

end Sys2Proof.Machine
end

section
/-! A draw without its order (44_timer_input.md R155, 46_sprite_engine.md R172 to R178): what a list of source bits leaves on a cell depends only
on how many 1-bits land there, and so does whether it collides. -/

namespace Sys2Proof.Machine

/-! ### Counting the bits that land on a cell -/

/-- How many 1-bits of a list of source bits land on the cell in row `r` and column `c`. -/
def bitHits (bits : List (Bool × Nat × Nat)) (r c : Nat) : Nat :=
  bits.countP fun h => h.1 && decide (h.2.2 = c) && decide (h.2.1 = r)

theorem bitHits_cons_target (b : Bool) (r c : Nat) (bits : List (Bool × Nat × Nat)) :
    bitHits ((b, r, c) :: bits) r c = bitHits bits r c + b.toNat := by
  cases b <;> simp [bitHits]

theorem bitHits_cons_of_ne {r c r' c' : Nat} (h : ¬(r' = r ∧ c' = c)) (b : Bool) (bits : List (Bool × Nat × Nat)) :
    bitHits ((b, r, c) :: bits) r' c' = bitHits bits r' c' := by
  have hne : ¬(((b = true) ∧ c = c') ∧ r = r') := fun ⟨⟨_, hc⟩, hr⟩ => h ⟨hr.symm, hc.symm⟩
  rw [bitHits, List.countP_cons, if_neg (by simpa using hne)]
  rfl

/-- The count of the specification is the count over the engine's source bits (R172, R175). -/
theorem spriteHits_eq_bitHits (s : State) (x0 y0 n r c : Nat) :
    spriteHits s x0 y0 n r c = bitHits (sourceBits s.disp.width s.disp.height s.mem (s.dataAddr 0) x0 y0 n) r c := by
  rw [bitHits, sourceBits, List.countP_flatMap]
  simp only [Function.comp_def, List.countP_map]
  rfl

theorem mem_sourceBits {width height : Nat} {m : Memory} {base x0 y0 n : Nat} {h : Bool × Nat × Nat} :
    h ∈ sourceBits width height m base x0 y0 n ↔
      ∃ row, row < n ∧ ∃ col, col < 8 ∧ ((m.read (base + row)).getLsbD (7 - col), (y0 + row) % height, (x0 + col) % width) = h := by
  simp only [sourceBits, List.mem_flatMap, List.mem_map, List.mem_range]

/-! ### What a list of source bits does to the display -/

/-- Every source bit has its target on the display. -/
def OnDisplay (d : Display) (bits : List (Bool × Nat × Nat)) : Prop := ∀ h ∈ bits, h.2.1 < d.height ∧ h.2.2 < d.width

theorem sourceBits_onDisplay {d : Display} (hw : 1 ≤ d.width) (hh : 1 ≤ d.height) (m : Memory) (base x0 y0 n : Nat) :
    OnDisplay d (sourceBits d.width d.height m base x0 y0 n) := by
  intro h hmem
  obtain ⟨row, -, col, -, rfl⟩ := mem_sourceBits.mp hmem
  exact ⟨Nat.mod_lt _ hh, Nat.mod_lt _ hw⟩

/-- One more bit on a cell flips the parity of the count, so plotting it first or counting it is the same (R173). -/
theorem plotAll_cell (bits : List (Bool × Nat × Nat)) (acc : Display × Bool) (hon : OnDisplay acc.1 bits) {r c : Nat}
    (hc : c < acc.1.width) : (plotAll bits acc).1.cell r c = Bool.xor (acc.1.cell r c) (bitHits bits r c % 2 == 1) := by
  induction bits generalizing acc with
  | nil => simp [plotAll, bitHits]
  | cons h bits ih =>
    obtain ⟨b, r₀, c₀⟩ := h
    have hc₀ : c₀ < acc.1.width := (hon _ List.mem_cons_self).2
    have hrest := ih (plot b r₀ c₀ acc) (fun h hm => hon h (List.mem_cons_of_mem _ hm)) hc
    rw [plot_cell acc b hc₀ hc] at hrest
    refine Eq.trans hrest ?_
    by_cases htarget : r = r₀ ∧ c = c₀
    · obtain ⟨rfl, rfl⟩ := htarget
      rw [if_pos ⟨rfl, rfl⟩, bitHits_cons_target, Bool.xor_assoc]
      congr 1
      cases b
      · simp
      · rcases Nat.mod_two_eq_zero_or_one (bitHits bits r c) with hpar | hpar <;> simp [hpar, Nat.add_mod]
    · rw [if_neg htarget, bitHits_cons_of_ne htarget]

/-- Bits collide on a cell if two or more land there, or one does and the cell was lit. -/
def CollidesAt (d : Display) (bits : List (Bool × Nat × Nat)) (r c : Nat) : Prop :=
  2 ≤ bitHits bits r c ∨ (d.cell r c = true ∧ 1 ≤ bitHits bits r c)

/-- A first bit collides where it lands on a lit cell, or the others collide with what it leaves (R173). -/
theorem collidesAt_cons {acc : Display × Bool} {b : Bool} {r₀ c₀ r c : Nat} (hc₀ : c₀ < acc.1.width) (hc : c < acc.1.width)
    (bits : List (Bool × Nat × Nat)) :
    CollidesAt acc.1 ((b, r₀, c₀) :: bits) r c ↔
      ((r = r₀ ∧ c = c₀) ∧ (acc.1.cell r₀ c₀ && b) = true) ∨ CollidesAt (plot b r₀ c₀ acc).1 bits r c := by
  rw [CollidesAt, CollidesAt, plot_cell acc b hc₀ hc]
  by_cases htarget : r = r₀ ∧ c = c₀
  · obtain ⟨rfl, rfl⟩ := htarget
    rw [if_pos ⟨rfl, rfl⟩, bitHits_cons_target]
    cases acc.1.cell r c <;> cases b <;> simp
    omega
  · rw [if_neg htarget, bitHits_cons_of_ne htarget]
    simp [htarget]

/-- The collision flag of a list of source bits. -/
theorem plotAll_flag (bits : List (Bool × Nat × Nat)) (acc : Display × Bool) (hon : OnDisplay acc.1 bits) :
    (plotAll bits acc).2 = true ↔
      acc.2 = true ∨ ∃ r c, r < acc.1.height ∧ c < acc.1.width ∧ CollidesAt acc.1 bits r c := by
  induction bits generalizing acc with
  | nil => simp [plotAll, CollidesAt, bitHits]
  | cons h bits ih =>
    obtain ⟨b, r₀, c₀⟩ := h
    obtain ⟨hr₀, hc₀⟩ : r₀ < acc.1.height ∧ c₀ < acc.1.width := hon _ List.mem_cons_self
    refine (ih (plot b r₀ c₀ acc) fun h hm => hon h (List.mem_cons_of_mem _ hm)).trans ?_
    rw [plot_flag, Bool.or_eq_true, or_assoc]
    refine or_congr_right ⟨?_, ?_⟩
    · rintro (hlit | ⟨r, c, hr, hc, hcol⟩)
      · exact ⟨r₀, c₀, hr₀, hc₀, (collidesAt_cons hc₀ hc₀ bits).mpr (.inl ⟨⟨rfl, rfl⟩, hlit⟩)⟩
      · exact ⟨r, c, hr, hc, (collidesAt_cons hc₀ hc bits).mpr (.inr hcol)⟩
    · rintro ⟨r, c, hr, hc, hcol⟩
      exact ((collidesAt_cons hc₀ hc bits).mp hcol).imp (fun h => h.2) fun h => ⟨r, c, hr, hc, h⟩

/-! ### A draw -/

section
variable {s : State} {x y n : Nibble}

/-- Each cell ends as its value XOR the parity of the 1-bits that land on it (R173, R175). -/
theorem State.drawSprite_cell (hw : 1 ≤ s.disp.width) (hh : 1 ≤ s.disp.height) {r c : Nat} (hc : c < s.disp.width) :
    (s.drawSprite x y n).disp.cell r c =
      Bool.xor (s.disp.cell r c) (spriteHits s (s.reg x).toNat (s.reg y).toNat n.toNat r c % 2 == 1) := by
  rw [State.drawSprite_disp, State.blitResult, blit_eq_plotAll, spriteHits_eq_bitHits]
  exact plotAll_cell _ (s.disp, false) (sourceBits_onDisplay hw hh _ _ _ _ _) hc

theorem State.drawSprite_reg_vf : (s.drawSprite x y n).reg 15#4 = flagByte (s.blitResult x y n).2 :=
  (State.reg_setVF ..).trans (if_pos rfl)

theorem flagByte_eq_one_iff (b : Bool) : flagByte b = 1#8 ↔ b = true := by cases b <;> decide

/-- VF is 1 exactly when some cell receives two 1-bits, or was lit and receives one (R155, R173). -/
theorem State.drawSprite_vf_iff (hw : 1 ≤ s.disp.width) (hh : 1 ≤ s.disp.height) :
    (s.drawSprite x y n).reg 15#4 = 1#8 ↔
      ∃ r c, r < s.disp.height ∧ c < s.disp.width ∧
        (2 ≤ spriteHits s (s.reg x).toNat (s.reg y).toNat n.toNat r c ∨
          (s.disp.cell r c = true ∧ 1 ≤ spriteHits s (s.reg x).toNat (s.reg y).toNat n.toNat r c)) := by
  rw [State.drawSprite_reg_vf, flagByte_eq_one_iff, State.blitResult, blit_eq_plotAll,
    plotAll_flag _ _ (sourceBits_onDisplay hw hh _ _ _ _ _)]
  simp [CollidesAt, spriteHits_eq_bitHits]

theorem State.drawSprite_reg {r : Nibble} (hr : r ≠ 15#4) : (s.drawSprite x y n).reg r = s.reg r :=
  State.completed_reg (i := .drw x y n) hr

end

/-- Settles O58: the engine's loops are one list of source bits, whose effect is counted cell by cell. -/
theorem drawMatchesParitySpec : Obligations.DrawMatchesParitySpec := by
  intro x y n s
  refine ⟨decodeWord_encode (i := .drw x y n) rfl, fun h hw hh => ⟨_, exec_drw_within x y n s h, ?_⟩, fun hn h => ?_⟩
  · refine ⟨fun r c _ hc => State.drawSprite_cell hw hh hc, ?_, State.drawSprite_vf_iff hw hh, fun r hr => ?_, rfl, rfl,
      fun _ => rfl, State.blitResult_width .., State.blitResult_height .., rfl⟩
    · rw [State.drawSprite_reg_vf]
      cases (s.blitResult x y n).2
      · exact .inr rfl
      · exact .inl rfl
    · exact State.drawSprite_reg (List.ne_of_not_mem_cons hr)
  · exact exec_of_cause_some ((if_neg hn).trans (dataCause_of_lt h))

/-! ### Distinct targets -/

theorem mod_add_inj {k a b len : Nat} (hlen : len ≤ k) (ha : a < len) (hb : b < len) {o : Nat} (h : (o + a) % k = (o + b) % k) : a = b :=
  (Nat.ModEq.add_left_cancel' o h).eq_of_lt_of_lt (ha.trans_le hlen) (hb.trans_le hlen)

/-- On a display at least as wide and as high as the sprite no cell is the target of two source bits (R178). -/
theorem sourceBits_targets_nodup {width height n : Nat} (hw : 8 ≤ width) (hh : n ≤ height) (m : Memory) (base x0 y0 : Nat) :
    ((sourceBits width height m base x0 y0 n).map Prod.snd).Nodup := by
  have hprod : (sourceBits width height m base x0 y0 n).map Prod.snd =
      (List.range n).map (fun row => (y0 + row) % height) ×ˢ (List.range 8).map fun col => (x0 + col) % width := by
    simp [sourceBits, SProd.sprod, List.product, List.map_flatMap, List.flatMap_map, Function.comp_def]
  rw [hprod]
  refine List.Nodup.product (List.nodup_range.map_on ?_) (List.nodup_range.map_on ?_)
  · exact fun a ha b hb => mod_add_inj hh (List.mem_range.mp ha) (List.mem_range.mp hb)
  · exact fun a ha b hb => mod_add_inj hw (List.mem_range.mp ha) (List.mem_range.mp hb)

theorem bitHits_le_one {bits : List (Bool × Nat × Nat)} (h : (bits.map Prod.snd).Nodup) (r c : Nat) : bitHits bits r c ≤ 1 := by
  refine le_trans ?_ (List.nodup_iff_count_le_one.mp h (r, c))
  rw [List.count, List.countP_map]
  refine List.countP_mono_left fun e _ he => ?_
  simp only [Bool.and_eq_true, decide_eq_true_eq] at he
  simp [Prod.ext_iff, he]

/-- A cell that receives a 1-bit is the target of a set bit of some row of the sprite. -/
theorem one_le_spriteHits_iff (s : State) (x0 y0 n r c : Nat) :
    1 ≤ spriteHits s x0 y0 n r c ↔
      ∃ row, row < n ∧ ∃ col, col < 8 ∧ (s.mem.read (s.i.toNat + row)).getLsbD (7 - col) = true ∧
        (y0 + row) % s.disp.height = r ∧ (x0 + col) % s.disp.width = c := by
  rw [spriteHits_eq_bitHits, bitHits, Nat.one_le_iff_ne_zero, ← Nat.pos_iff_ne_zero, List.countP_pos_iff]
  constructor
  · rintro ⟨h, hmem, hh⟩
    obtain ⟨row, hrow, col, hcol, rfl⟩ := mem_sourceBits.mp hmem
    simp only [Bool.and_eq_true, decide_eq_true_eq] at hh
    exact ⟨row, hrow, col, hcol, hh.1.1, hh.2, hh.1.2⟩
  · rintro ⟨row, hrow, col, hcol, hbit, rfl, rfl⟩
    exact ⟨_, mem_sourceBits.mpr ⟨row, hrow, col, hcol, rfl⟩, by simpa [State.dataAddr_eq] using hbit⟩

theorem ne_zero_iff_exists_column (b : Byte) : b ≠ 0#8 ↔ ∃ col, col < 8 ∧ b.getLsbD (7 - col) = true := by
  constructor
  · intro h
    by_contra hno
    refine h (BitVec.eq_of_getLsbD_eq fun k hk => ?_)
    have hcol : b.getLsbD (7 - (7 - k)) ≠ true := fun hb => hno ⟨7 - k, by omega, hb⟩
    rw [show 7 - (7 - k) = k by omega] at hcol
    simpa using hcol
  · rintro ⟨col, -, hb⟩ rfl
    simp at hb

/-- A sprite has a 1-bit exactly when some cell receives one (R172, R178). -/
theorem spriteHasBit_iff_exists_hit {s : State} (hw : 1 ≤ s.disp.width) (hh : 1 ≤ s.disp.height) (x0 y0 n : Nat) :
    spriteHasBit s n ↔ ∃ r c, r < s.disp.height ∧ c < s.disp.width ∧ 1 ≤ spriteHits s x0 y0 n r c := by
  simp only [one_le_spriteHits_iff, spriteHasBit, ne_zero_iff_exists_column]
  constructor
  · rintro ⟨row, hrow, col, hcol, hbit⟩
    exact ⟨_, _, Nat.mod_lt _ hh, Nat.mod_lt _ hw, row, hrow, col, hcol, hbit, rfl, rfl⟩
  · rintro ⟨r, c, -, -, row, hrow, col, hcol, hbit, -, -⟩
    exact ⟨row, hrow, col, hcol, hbit⟩

/-! ### Two draws -/

section
variable {s : State} {x y n : Nibble}

/-- With its coordinates not in VF, the second of two draws has the origin and the sprite of the first. -/
theorem spriteHits_drawSprite (hx : x ≠ 15#4) (hy : y ≠ 15#4) (r c : Nat) :
    spriteHits (s.drawSprite x y n) ((s.drawSprite x y n).reg x).toNat ((s.drawSprite x y n).reg y).toNat n.toNat r c =
      spriteHits s (s.reg x).toNat (s.reg y).toNat n.toNat r c := by
  simp only [spriteHits, State.drawSprite_reg hx, State.drawSprite_reg hy, State.drawSprite_mem, State.drawSprite_i,
    State.drawSprite_disp, State.blitResult_width, State.blitResult_height]

/-- XOR with the same parity twice (R178). -/
theorem State.drawSprite_drawSprite_disp (hd : s.disp.wf) (hx : x ≠ 15#4) (hy : y ≠ 15#4) :
    ((s.drawSprite x y n).drawSprite x y n).disp = s.disp := by
  have hd₁ : (s.drawSprite x y n).disp.wf := blit_wf hd ..
  refine Display.eq_of_cells (blit_wf hd₁ ..) hd (by simp) (by simp) fun r c _ hc => ?_
  have hc : c < s.disp.width := by simpa using hc
  rw [State.drawSprite_cell hd₁.1 hd₁.2.1 (by simpa using hc), spriteHits_drawSprite hx hy, State.drawSprite_cell hd.1 hd.2.1 hc,
    Bool.xor_assoc, Bool.xor_self, Bool.xor_false]

theorem spriteHits_le_one (hw : 8 ≤ s.disp.width) (hh : 15 ≤ s.disp.height) (x0 y0 r c : Nat) : spriteHits s x0 y0 n.toNat r c ≤ 1 := by
  have hn : n.toNat ≤ s.disp.height := by have := n.isLt; omega
  rw [spriteHits_eq_bitHits]
  exact bitHits_le_one (sourceBits_targets_nodup hw hn ..) r c

/-- With distinct targets a draw collides exactly when a 1-bit lands on a lit cell (R173). -/
theorem State.drawSprite_vf_iff_of_distinct (hw : 8 ≤ s.disp.width) (hh : 15 ≤ s.disp.height) :
    (s.drawSprite x y n).reg 15#4 = 1#8 ↔
      ∃ r c, r < s.disp.height ∧ c < s.disp.width ∧ s.disp.cell r c = true ∧
        1 ≤ spriteHits s (s.reg x).toNat (s.reg y).toNat n.toNat r c := by
  have hone (r c : Nat) : ¬2 ≤ spriteHits s (s.reg x).toNat (s.reg y).toNat n.toNat r c :=
    Nat.not_le.mpr (Nat.lt_succ_of_le (spriteHits_le_one hw hh ..))
  rw [State.drawSprite_vf_iff (by omega) (by omega)]
  simp only [hone, false_or]

/-- The second draw collides where the first lit a cell (R178; log 32). -/
theorem State.drawSprite_drawSprite_vf_iff (hw : 8 ≤ s.disp.width) (hh : 15 ≤ s.disp.height) (hx : x ≠ 15#4) (hy : y ≠ 15#4) :
    ((s.drawSprite x y n).drawSprite x y n).reg 15#4 = 1#8 ↔
      ∃ r c, r < s.disp.height ∧ c < s.disp.width ∧ s.disp.cell r c = false ∧
        1 ≤ spriteHits s (s.reg x).toNat (s.reg y).toNat n.toNat r c := by
  rw [State.drawSprite_vf_iff_of_distinct (by simpa using hw) (by simpa using hh)]
  simp only [spriteHits_drawSprite hx hy]
  refine exists_congr fun r => exists_congr fun c => ?_
  rw [State.drawSprite_disp, State.blitResult_width, State.blitResult_height, ← State.drawSprite_disp]
  refine and_congr_right fun _ => and_congr_right fun hc => and_congr_left fun hhit => ?_
  have hodd : spriteHits s (s.reg x).toNat (s.reg y).toNat n.toNat r c = 1 := le_antisymm (spriteHits_le_one hw hh ..) hhit
  rw [State.drawSprite_cell (by omega) (by omega) hc, hodd]
  simp

theorem State.drawSprite_vf_eq_zero_iff : (s.drawSprite x y n).reg 15#4 = 0#8 ↔ (s.drawSprite x y n).reg 15#4 ≠ 1#8 := by
  rw [State.drawSprite_reg_vf]
  cases (s.blitResult x y n).2 <;> decide

end

/-- Settles O59: both draws are counted on the same source bits, which have distinct targets. -/
theorem drawTwiceRestores : Obligations.DrawTwiceRestores := by
  intro x y n s hd hw hh hx hy h
  refine ⟨_, _, exec_drw_within x y n s h, exec_drw_within x y n _ h, State.drawSprite_drawSprite_disp hd hx hy,
    State.drawSprite_drawSprite_vf_iff hw hh hx hy, fun hblank => ?_⟩
  have hunlit (r c : Nat) : s.disp.cell r c = false := by rw [Display.cell, hblank]; rfl
  rw [State.drawSprite_vf_eq_zero_iff, Ne, State.drawSprite_vf_iff_of_distinct hw hh, State.drawSprite_drawSprite_vf_iff hw hh hx hy,
    spriteHasBit_iff_exists_hit hd.1 hd.2.1 (s.reg x).toNat (s.reg y).toNat]
  simp [hunlit]

end Sys2Proof.Machine
end
